-- ==== Sys2Proof/Word.lean ====
section
/-! DEFINITION. The words of the LK316: bytes, the show clock, zone numbers, and the units in which the
manual gives line times and the supply voltage. -/

namespace Sys2Proof

/-- Eight bits: a level, cap, opacity or colour channel, and a byte of a frame body or of the record. -/
abbrev Byte := BitVec 8

/-- A value of the 32-bit show clock, in milliseconds (R121). -/
abbrev Clock := BitVec 32

/-- A five-bit zone field: 0 to 30 name stations, 31 names all zones or none (R24). -/
abbrev ZoneNo := BitVec 5

/-- A time measured on the zone bus line, in nanoseconds. -/
abbrev Nanos := Nat

/-- A supply voltage, in millivolts. -/
abbrev Millivolts := Nat

/-- The byte whose value is `n` modulo 256. -/
def byteOf (n : Nat) : Byte := BitVec.ofNat 8 n

/-- The smaller of two levels. -/
def lower (a b : Byte) : Byte := if a.toNat ≤ b.toNat then a else b

/-- The larger of two levels. -/
def higher (a b : Byte) : Byte := if a.toNat ≤ b.toNat then b else a

/-- The bits of a word, most significant first: the order in which every field is sent (R5, R6). -/
def msbFirst {w : Nat} (x : BitVec w) : List Bool := (List.range w).map fun i => x.getMsbD i

end Sys2Proof
end

