-- ==== Sys2Proof/Config.lean ====
section
/-! DEFINITION. What the 96-byte configuration record fixes for a node while it runs (R94, R146, R161, R178).
The manual leaves no value of any command open, so there is no free value here. -/

namespace Sys2Proof

/-- Three channels in the order red, green, blue. -/
structure Colour where
  red : Byte
  green : Byte
  blue : Byte
deriving DecidableEq, Repr

/-- Every channel 0. -/
def Colour.black : Colour := ⟨0, 0, 0⟩

/-- The type of a string port (R161). -/
inductive PortType where
  | off
  | stream
  | confirmed
  | pwm
deriving DecidableEq, Repr

/-- One port's part of the record: times in milliseconds (R161, R178). -/
structure PortConfig where
  type : PortType
  /-- STREAM speed SLOW. -/
  slow : Bool
  framePeriod : Nat
  refreshInterval : Nat
  pixels : Nat
deriving DecidableEq, Repr

/-- One segment of the zone path (R146). -/
structure Segment where
  port : Fin 4
  first : Nat
  count : Nat
  reversed : Bool
deriving DecidableEq, Repr

/-- How many predecessors must arrive (R95, R99). -/
inductive Join where
  | first
  | both
deriving DecidableEq, Repr

/-- One entry of the route table (R94). -/
structure RouteEntry where
  member : Bool
  join : Join
  sendsHandoff : Bool
  reverse : Bool
  predecessors : List ZoneNo
  /-- In units of 10 ms; 0 means no timeout. -/
  fallback : Byte
deriving DecidableEq, Repr

/-- How a node leaves LISTEN_ONLY (R16). -/
inductive Recovery where
  | auto
  | peer
deriving DecidableEq, Repr

/-- What a full cue list does with a new key (R108). -/
inductive IntakePolicy where
  | replaceOldest
  | refuseNew
deriving DecidableEq, Repr

/-- The configuration taken into use from a good record (R178). -/
structure NodeConfig where
  zone : ZoneNo
  recovery : Recovery
  policy : IntakePolicy
  vtSelection : BitVec 3
  /-- The presence interval in units of 50 ms. -/
  presenceCount : Nat
  sagCap : Byte
  /-- The peer cap floor F. -/
  floor : Byte
  /-- The cap slew σ per 10 ms. -/
  slew : Byte
  themeColour : Colour
  themeLevel : Byte
  defaultDimmer : Byte
  /-- In units of 10 ms. -/
  darkFade : Byte
  ports : Vector PortConfig 4
  segments : List Segment
  routes : Vector RouteEntry 8
deriving DecidableEq, Repr

/-- A port configured OFF. -/
def PortConfig.off : PortConfig := ⟨.off, false, 5, 50, 0⟩

/-- A route on which the zone is no member. -/
def RouteEntry.none : RouteEntry := ⟨false, .first, false, false, [], 0⟩

/-- What stands for the configuration while no record is in use (STARTING, HALTED).
DESIGN CHOICE, log entry 2: no rule reads it there. -/
def NodeConfig.blank : NodeConfig where
  zone := 0
  recovery := .auto
  policy := .replaceOldest
  vtSelection := 0
  presenceCount := 0
  sagCap := 0
  floor := 0
  slew := 0
  themeColour := Colour.black
  themeLevel := 0
  defaultDimmer := 0
  darkFade := 0
  ports := Vector.replicate 4 PortConfig.off
  segments := []
  routes := Vector.replicate 8 RouteEntry.none

/-- The route entry a three-bit route field names (R94). -/
def NodeConfig.route (c : NodeConfig) (r : BitVec 3) : RouteEntry := c.routes[r.toNat]'r.isLt

end Sys2Proof
end

