-- ==== Sys2Proof/Syntax.lean ====
section
/-! DEFINITION. The commands of the block: one constructor of `Instr` for every row of spec/opcode_table.json,
with what the outside supplies at that event as its operands. The table gives its rows no operand fields; the
operands here are what each row's rule needs from outside the node (log entry 3). -/

namespace Sys2Proof

/-- The key of a cue: the origin zone of its CALL, and its tag (R29). -/
structure CueKey where
  origin : ZoneNo
  tag : Byte
deriving DecidableEq, Repr

/-- Which of its two causes a power-on start has (R176). -/
inductive PowerCause where
  /-- Power comes up with RESET_N high. -/
  | powerUp
  /-- RESET_N is asserted; the node waits for its release. -/
  | resetAsserted
deriving DecidableEq, Repr

/-- One bit of a frame as it stood on the line (R2, R3). -/
structure LineBit where
  /-- From the falling edge of the bit before to the falling edge of this one; not read for a start bit. -/
  spacing : Nanos
  /-- The length of the dominant pulse. -/
  width : Nanos
  /-- The line as sampled 2 µs after the falling edge: true is recessive, a 1. -/
  sample : Bool
deriving DecidableEq, Repr

/-- The line since the last bit time or edge on it, as an event finds it (R4). -/
structure Gap where
  /-- Since the last falling edge. Where none came since, it is the time since the cut at which the position of a void
  pulse begins (R11), or since the entry to ACTIVE (R22). -/
  since : Nanos
  /-- The length of the dominant pulse from there; 0 where the line stayed recessive. -/
  width : Nanos
deriving DecidableEq, Repr

/-- The commands, in the order of spec/opcode_table.json. -/
inductive Instr where
  | powerOnStart (cause : PowerCause)
  | resetRelease
  /-- `byte0` is what the read gave as byte 0. -/
  | configReadFailure (byte0 : Byte)
  | configReadRetry
  /-- `record` is the 96 bytes read; `supply` the LED supply at this event, for the first band event. -/
  | configReadDone (record : List Byte) (supply : Millivolts)
  | wakingEdge
  | wakingEnd (supply : Millivolts)
  /-- `gap` is the line before the falling edge that the node drives. -/
  | attemptStart (gap : Gap)
  | attemptSent
  | attemptVoided
  /-- `bit` is the frame bit numbered `position` (the start bit is 0) as it was read back. -/
  | readbackFault (position : Nat) (bit : LineBit)
  /-- `headerBit` is the losing bit, 0 the first header bit sent. -/
  | contentionLost (headerBit : Fin 12)
  | lineStuckCondition (dominant : Nanos)
  | silentRecovery (recessive : Nanos)
  | quietPeriodExpiry
  /-- `bits` are the frame's bits from the start bit to the last check bit. -/
  | frameTaken (bits : List LineBit)
  | frameVoided (bits : List LineBit)
  | frameDiscarded (bits : List LineBit)
  /-- `bits` are the bits received before the cut. -/
  | frameCutShort (bits : List LineBit)
  | presenceDelivered
  | capDelivered
  | callHandled
  | cancelHandled
  | handoffHandled
  | themeHandled
  | dimHandled
  | sleepHandled
  | wakeHandled
  | queryHandled
  | clearHandled
  | statusHandled
  | absenceExpiry (zone : Fin 31)
  | presenceTimerExpiry
  | slewStep
  | dimmerRampStep
  | bandEvent (supply : Millivolts)
  | settleTimerExpiry
  | releaseTimerExpiry
  | fallbackExpiry (key : CueKey)
  | delayExpiry (key : CueKey)
  | layerPhaseAdvance (key : CueKey)
  | fadeStep (key : CueKey)
  | transitionStep
  | portFrameEvent (port : Fin 4)
  | sendFinish (port : Fin 4)
  | markerShifted (port : Fin 4)
  /-- `echo` is the 32 bits received on the echo pin, the first received in the highest bit. -/
  | echoArrival (port : Fin 4) (echo : BitVec 32)
  | echoTimeout (port : Fin 4)
  | probeDeadline (port : Fin 4)
  | darkFrameSent (port : Fin 4)
  | drainTimerExpiry
  | enterAsleep
  | showTick
  /-- `gap` is the line before the falling edge. -/
  | startBit (gap : Gap)
  /-- `gap` is the line before the falling edge. -/
  | lineNoise (gap : Gap)
deriving DecidableEq, Repr

end Sys2Proof
end

