-- ==== Sys2Proof/Machine/State.lean ====
section
/-! DEFINITION. The state of the node, block by block as the manual's block diagram lists it, as plain data;
the fault and refusal types; and the state after reset. -/

namespace Sys2Proof.Machine

/-! ## Node -/

/-- The reader of the configuration memory in STARTING (R176, R177); the number is of read failures so far. -/
inductive Reader where
  /-- RESET_N is held low. -/
  | resetHeld
  | reading (failures : Nat)
  /-- In the 5 ms wait before a retry. -/
  | waiting (failures : Nat)
deriving DecidableEq, Repr

/-- How far a drain has come (R181 to R185). -/
inductive DrainPhase where
  /-- The drain proper. -/
  | proper
  /-- The dark phase. -/
  | dark
  /-- Past the dark order. -/
  | ordered
deriving DecidableEq, Repr

/-- The node states of section 11.1. -/
inductive NodeState where
  | starting (reader : Reader)
  | halted
  | active
  | draining (phase : DrainPhase)
  | asleep
  | waking
deriving DecidableEq, Repr

/-! ## Bus port -/

/-- A frame the node sends: its header, body and check (R5, R6, R62). -/
structure Frame where
  header : BitVec 12
  body : List Byte
  check : BitVec 16
deriving DecidableEq, Repr

/-- Where the idle count runs from (R4). -/
inductive IdleFrom where
  /-- From the end of the last bit time of a frame, 4 µs after that bit's falling edge. -/
  | bitEnd
  /-- From the last rising edge, where no frame was being received. -/
  | rise
deriving DecidableEq, Repr

/-- What the bus port is doing on the line (R4, R8, R13, R22). -/
inductive LineWatch where
  /-- The receiver is off, or watches falling edges only. -/
  | unwatched
  /-- No frame; where the idle count of R4 runs from, and the count as it last restarted. -/
  | outside (counts : IdleFrom) (idleCount : Nanos)
  /-- Following another station's frame. -/
  | receiving
  /-- An attempt of this frame is in flight. -/
  | sending (frame : Frame)
  /-- A readback fault stopped the node's own sending: the rest of that frame is followed and not received
  (log entry 30). -/
  | stopped
deriving DecidableEq, Repr

/-- The standing (section 1.6). -/
inductive Standing where
  | speaking
  | listenOnly
  | silent
deriving DecidableEq, Repr

/-- What the node's driver did at the last void slot of a received frame (R10, R11). -/
inductive Vote where
  | quiet
  | stretched
  | voidPulse
deriving DecidableEq, Repr

/-- The bus port's state (R15 to R20, R22). -/
structure BusPort where
  line : LineWatch
  standing : Standing
  voidRun : Nat
  faultRun : Nat
  cleanRun : Nat
  muted : Bool
  quietDeadline : Option Clock
  expiryMark : Bool
  recessiveCount : Nanos
  lastVote : Vote
deriving DecidableEq, Repr

/-! ## Outgoing queue -/

/-- The four kinds the node sends (R23). -/
inductive SendKind where
  | cap
  | handoff
  | status
  | presence
deriving DecidableEq, Repr

/-- One flag for each notice group (R187, R188). -/
structure GroupFlags where
  cue : Bool
  bus : Bool
  output : Bool
deriving DecidableEq, Repr

/-- The key and the route a HANDOFF names (R39). -/
structure Wave where
  key : CueKey
  route : BitVec 3
deriving DecidableEq, Repr

/-- One entry of the outgoing queue (R54), with the clear marks of a PRESENCE (R188). -/
structure SendEntry where
  kind : SendKind
  header : BitVec 12
  order : Nat
  budget : Nat
  /-- Present for a HANDOFF, absent for the other kinds. -/
  wave : Option Wave
  inFlight : Bool
  renew : Bool
  withdrawn : Bool
  clearMarks : GroupFlags
deriving DecidableEq, Repr

/-- The outgoing queue, head first, and the counter that gives entries their order. -/
structure OutQueue where
  entries : List SendEntry
  nextOrder : Nat
deriving DecidableEq, Repr

/-! ## Orders and the intake -/

/-- The effect of a layer (R28). -/
inductive Effect where
  | hold
  | fade
  | sweep
  | breathe
  | chase
deriving DecidableEq, Repr

/-- What a single-run layer does at the end of its period (R28). -/
inductive EndAction where
  | keep
  | drop
deriving DecidableEq, Repr

/-- How a layer is combined with what lies beneath it (R28, R154). -/
inductive Blend where
  | replace
  | add
  | max
  | dim
deriving DecidableEq, Repr

/-- The fields of a CALL that a layer keeps (R28, R123). -/
structure Shape where
  effect : Effect
  loop : Bool
  long : Bool
  endAction : EndAction
  blend : Blend
  priority : BitVec 3
  colourA : Colour
  colourB : Colour
  period : BitVec 16
  width : Byte
  handoffPoint : Byte
deriving DecidableEq, Repr

/-- How a CANCEL ends layers (R30). -/
inductive CancelMode where
  | stop
  | fadeOut
deriving DecidableEq, Repr

/-- The body fields of a frame delivered to the intake FIFO (R49). -/
inductive Order where
  | wake
  | call (tag : Byte) (route : BitVec 3) (shape : Shape) (startDelay : Byte)
  | cancel (origin : ZoneNo) (tag : Byte) (mode : CancelMode) (fadeTime : Byte)
  | handoff (origin : ZoneNo) (tag : Byte) (route : BitVec 3)
  | theme (colour : Colour) (level : Byte) (time : Byte)
  | dim (level : Byte) (time : Byte)
  | sleep (drainTime : Byte)
  | query (target : ZoneNo)
  | status (body : List Byte)
  | clear (target : ZoneNo) (mask : BitVec 16)
deriving DecidableEq, Repr

/-- An entry of the intake FIFO: the header origin and the fields (R49). -/
structure IntakeEntry where
  origin : ZoneNo
  order : Order
deriving DecidableEq, Repr

/-- The moment `micros` µs after an event that fell within the millisecond `tick`. -/
structure Moment where
  tick : Clock
  micros : Nat
deriving DecidableEq, Repr

/-- The handling slot's content (R50). -/
structure Handling where
  entry : IntakeEntry
  completion : Moment
deriving DecidableEq, Repr

/-- What a roster entry says of the station's kind (R69). -/
inductive PeerKind where
  | lighting
  | other
deriving DecidableEq, Repr

/-- A PRESENCE or CAP that passed the checks, on its way to the roster (R47). -/
inductive RosterFrame where
  | presence (origin : Fin 31) (kind : PeerKind) (cap : Byte)
  | cap (origin : Fin 31) (cap : Byte)
deriving DecidableEq, Repr

/-- The intake FIFO, the handling slot, and the accepted roster frames not yet delivered (log entry 8). -/
structure Intake where
  fifo : List IntakeEntry
  slot : Option Handling
  inbox : List RosterFrame
deriving DecidableEq, Repr

/-! ## Roster, level and supply -/

/-- What a PRESENT roster entry holds (R69). -/
structure Peer where
  kind : PeerKind
  cap : Byte
  lastHeard : Clock
  absence : Clock
deriving DecidableEq, Repr

/-- The peer roster (an ABSENT entry is none), the presence timer and the presence completion stamp (R69, R75, R76). -/
structure Roster where
  entries : Vector (Option Peer) 31
  presenceTimer : Option Clock
  completionStamp : Option Clock
deriving DecidableEq, Repr

/-- A dimmer ramp in progress (R80). -/
structure Ramp where
  start : Byte
  target : Byte
  steps : Nat
  taken : Nat
  deadline : Clock
deriving DecidableEq, Repr

/-- The level unit: cap term K, dimmer D, applied level A, the slew step and the ramp (R78 to R82). -/
structure Level where
  k : Byte
  d : Byte
  a : Byte
  slewDeadline : Option Clock
  ramp : Option Ramp
deriving DecidableEq, Repr

/-- The supply states (R87). -/
inductive SupplyState where
  | normal
  | sagPending
  | sag
  | recoverPending
  | deep
deriving DecidableEq, Repr

/-- The supply bands (R86). -/
inductive Band where
  | b0
  | b1
  | b2
  | b3
  | b4
deriving DecidableEq, Repr

/-- The supply monitor (R86, R87). -/
structure Supply where
  state : SupplyState
  ownCap : Byte
  settle : Option Clock
  release : Option Clock
  band : Band
deriving DecidableEq, Repr

/-! ## Cues and layers -/

/-- The state of a cue record (R96). -/
inductive CueState where
  | awaitHandoff
  | delaying
deriving DecidableEq, Repr

/-- A record of the cue list (R96). -/
structure CueRecord where
  key : CueKey
  route : BitVec 3
  shape : Shape
  startDelay : Byte
  state : CueState
  arrived : List ZoneNo
  fallback : Option Clock
  delay : Option Clock
deriving DecidableEq, Repr

/-- The state of a layer (R123). -/
inductive LayerState where
  | running
  | held
  | fading
deriving DecidableEq, Repr

/-- A fade in progress (R129). -/
structure Fade where
  start : Byte
  steps : Nat
  taken : Nat
  deadline : Clock
deriving DecidableEq, Repr

/-- A layer of the stack (R123). -/
structure Layer where
  key : CueKey
  route : BitVec 3
  reverse : Bool
  shape : Shape
  phase : Nat
  subCount : Nat
  opacity : Byte
  state : LayerState
  fade : Option Fade
  spent : Bool
  startOrder : Nat
deriving DecidableEq, Repr

/-- The layer stack, bottom first, and the counter that gives layers their start order. -/
structure LayerStack where
  layers : List Layer
  nextStart : Nat
deriving DecidableEq, Repr

/-! ## Base and ports -/

/-- A colour with a level. -/
structure Look where
  colour : Colour
  level : Byte
deriving DecidableEq, Repr

/-- A base transition in progress (R149, R151). -/
structure Transition where
  start : Look
  target : Look
  steps : Nat
  taken : Nat
  deadline : Clock
deriving DecidableEq, Repr

/-- The base: its current look, the theme, and a transition (R149). -/
structure Base where
  current : Look
  theme : Look
  transition : Option Transition
deriving DecidableEq, Repr

/-- A frame of a string port: one colour for each port pixel, pixel 0 first (R157). -/
abbrev PixelFrame := List Colour

/-- The port states (R163). -/
inductive PortState where
  | off
  | idle
  | shifting
  | awaitEcho
  | faulted
  | dark
deriving DecidableEq, Repr

/-- What a port is doing on its pins, which in FAULTED and DARK its state does not tell (R171, R173). -/
inductive PortActivity where
  | none
  /-- The shift or latch gap of a send or a probe. -/
  | shifting
  /-- The echo wait of a send or a probe. -/
  | echoWait
  /-- The shift or latch gap of the dark frame. -/
  | darkShifting
deriving DecidableEq, Repr

/-- A shift in progress on the pins of a chain: the frame it carries, the send count that its marker carries, and when
the shift ends, the latch gap or the marker with it (R162, R167, R169). -/
structure Shift where
  frame : PixelFrame
  count : BitVec 16
  ends : Moment
deriving DecidableEq, Repr

/-- A string port (R163). -/
structure Port where
  state : PortState
  activity : PortActivity
  /-- The shift that goes on, of a send, a probe or the dark frame (log entry 11). -/
  shift : Option Shift
  slot : Option PixelFrame
  lastSent : Option PixelFrame
  forced : Bool
  refreshDeadline : Option Clock
  frameDeadline : Option Clock
  failureRun : Nat
  sendCount : BitVec 16
  probeDeadline : Option Clock
  /-- Whether the shift in progress is followed by an echo check (R174). -/
  checkEcho : Bool
  echoTimeout : Option Moment
  /-- The dark frame has been sent and reported (R173). -/
  reportedDark : Bool
deriving DecidableEq, Repr

/-- The notices, bit k being notice k, and the group-new flags (R187). -/
structure Status where
  notices : BitVec 16
  groupNew : GroupFlags
deriving DecidableEq, Repr

/-! ## The whole node -/

/-- The state of the node and the queue of commands that wait for it. -/
structure State where
  nodeState : NodeState
  config : NodeConfig
  showClock : Clock
  drainDeadline : Option Clock
  bus : BusPort
  out : OutQueue
  intake : Intake
  roster : Roster
  level : Level
  supply : Supply
  cues : List CueRecord
  stack : LayerStack
  base : Base
  ports : Vector Port 4
  /-- The channel values of S3_0 to S3_11 on a PWM port (R168). -/
  pwm : Vector Byte 12
  status : Status
  /-- Commands not yet taken, first in first out. -/
  pending : List Instr
deriving DecidableEq, Repr

/-- The reasons a command can stop the node: none, since no rule stops it (log entry 1). -/
inductive Fault where
deriving DecidableEq, Repr

/-- The reasons a command can be refused. -/
inductive Refusal where
  /-- Raised by an arm of `exec` for a command that has no meaning yet. Safe: nothing is said of it. -/
  | notModelled (mnemonic : String)
deriving DecidableEq, Repr

/-- What a meaning answers. -/
abbrev Result := Host.Outcome State Fault Refusal

/-! ## Power-on values -/

/-- No group flag set. -/
def GroupFlags.clear : GroupFlags := ⟨false, false, false⟩

/-- The bus port at a power-on start (R22). -/
def BusPort.powerOn : BusPort where
  line := .unwatched
  standing := .speaking
  voidRun := 0
  faultRun := 0
  cleanRun := 0
  muted := false
  quietDeadline := none
  expiryMark := false
  recessiveCount := 0
  lastVote := .quiet

/-- The intake with nothing in it (R52). -/
def Intake.empty : Intake := ⟨[], none, []⟩

/-- The roster with every entry ABSENT and no timer or stamp (R74, R75, R76). -/
def Roster.powerOn : Roster := ⟨Vector.replicate 31 none, none, none⟩

/-- The level unit at a power-on start (R84). -/
def Level.powerOn : Level := ⟨255, 0, 0, none, none⟩

/-- The supply monitor at a power-on start (R93). -/
def Supply.powerOn : Supply := ⟨.normal, 255, none, none, .b4⟩

/-- The base at a power-on start (R153). -/
def Base.powerOn : Base := ⟨⟨Colour.black, 0⟩, ⟨Colour.black, 0⟩, none⟩

/-- A port at a power-on start (R174). -/
def Port.powerOn : Port where
  state := .dark
  activity := .none
  shift := none
  slot := none
  lastSent := none
  forced := false
  refreshDeadline := none
  frameDeadline := none
  failureRun := 0
  sendCount := 0
  probeDeadline := none
  checkEcho := true
  echoTimeout := none
  reportedDark := false

/-- Every block at its power-on values, the reader as given (R176). -/
def State.powerOn (reader : Reader) (pending : List Instr) : State where
  nodeState := .starting reader
  config := NodeConfig.blank
  showClock := 0
  drainDeadline := none
  bus := BusPort.powerOn
  out := ⟨[], 0⟩
  intake := Intake.empty
  roster := Roster.powerOn
  level := Level.powerOn
  supply := Supply.powerOn
  cues := []
  stack := ⟨[], 0⟩
  base := Base.powerOn
  ports := Vector.replicate 4 Port.powerOn
  pwm := Vector.replicate 12 0
  status := ⟨0, GroupFlags.clear⟩
  pending := pending

/-- The node right after power has come up with RESET_N high: STARTING, the first read begun, no command waiting
(R176; log entry 14). -/
def State.reset : State := State.powerOn (.reading 0) []

end Sys2Proof.Machine
end

