-- ==== Sys2Proof/Machine/Operands.lean ====
section
/-! DEFINITION. What stands on the line: pulses and edges, the bits of a frame, its check, the header and body
fields of every kind, both as they are received and as the node sends them (sections 1.1, 1.2, 2.1 and 2.5). -/

namespace Sys2Proof.Machine

/-! ## Times on the line -/

/-- One bit time is 4 µs (R1). -/
def bitTime : Nanos := 4000

/-- The line is idle when it has been recessive for 3 bit times (R4). -/
def lineIdle (recessive : Nanos) : Bool := decide (3 * bitTime ≤ recessive)

/-- How long the line has been recessive in the gap, with no falling edge (R4). -/
def gapRecessive (g : Gap) : Nanos := g.since - g.width

/-- The idle count at the end of the gap: recessive time, and after a frame none before the end of its last bit time
(R4). -/
def idleCount (g : Gap) : IdleFrom → Nanos
  | .bitEnd => g.since - max bitTime g.width
  | .rise => gapRecessive g

/-- Some idle count finds the line idle at the end of the gap (R4). -/
def gapMayBeIdle (g : Gap) : Bool := lineIdle (gapRecessive g)

/-- An edge can come at the end of the gap, and some idle count finds the line not idle then (R4). -/
def gapMayBeNoise (g : Gap) : Bool := decide (g.width ≤ g.since) && !lineIdle (idleCount g .bitEnd)

/-- The line-stuck condition: dominant for more than 8 bit times (R17). -/
def lineStuck (dominant : Nanos) : Bool := decide (8 * bitTime < dominant)

/-- SILENT ends when the line has been recessive for 64 bit times (R18). -/
def lineHealthy (recessive : Nanos) : Bool := decide (64 * bitTime ≤ recessive)

/-- How many bit times a frame with a body of `n` bytes lasts, end gap included (R5). -/
def frameBitTimes (n : Nat) : Nat := 37 + 8 * n

/-! ## Pulses and edges -/

/-- The class of a pulse (R2). -/
inductive PulseClass where
  | short
  | long
  | bitFault
deriving DecidableEq, Repr

/-- The class of a pulse of this width (R2). -/
def pulseClass (width : Nanos) : PulseClass :=
  if 500 ≤ width ∧ width ≤ 1500 then .short
  else if 2500 ≤ width ∧ width ≤ 3500 then .long
  else .bitFault

/-- A falling edge inside the window of R3. -/
def edgeInWindow (spacing : Nanos) : Bool := decide (3500 ≤ spacing ∧ spacing ≤ 4500)

/-- The mid-bit sample comes 2 µs after the falling edge (R2). -/
def midBit : Nanos := 2000

/-- The line `t` after the falling edge of `b`, by the pulse of `b` and the bits after it: true is recessive. None where
an edge falls at that very moment, which may be sampled either way (log entry 18). `beyond` is the line past the last
bit's pulse. -/
def lineAt (beyond : Option Bool) : List LineBit → Nanos → LineBit → Option Bool
  | [], t, b => if t < b.width then some false else if t = b.width then none else beyond
  | c :: cs, t, b =>
    if t < b.width then some false
    else if t = b.width then none
    else if t < c.spacing then some true
    else if t = c.spacing then none
    else lineAt beyond cs (t - c.spacing) c

/-- Each sample is the line at its mid-bit, an early pulse of a later bit included (R2, R3). -/
def samplesAgree (beyond : Option Bool) : List LineBit → Bool
  | [] => true
  | b :: rest => (lineAt beyond rest midBit b).all (· == b.sample) && samplesAgree beyond rest

/-- The sample of one bit agrees with its pulse, whatever comes after it. -/
def bitConsistent (b : LineBit) : Bool := samplesAgree none [b]

/-- A bit fault of the pulse; a pulse that becomes the line-stuck condition is not classified (R2, R17). -/
def badPulse (b : LineBit) : Bool := decide (pulseClass b.width = .bitFault) && !lineStuck b.width

/-- The frame is found cut short at this time after a falling edge, if the line is recessive then (R3). -/
def cutTime : Nanos := 6000

/-- The edge of `b` can follow the pulse of `a` within a frame: that pulse has ended, and the frame has neither been
found cut short nor left for an idle line, be it that the edge came in time or that the line was still dominant at the
cut time and has not been idle since. An edge, or the end of a pulse, at the cut time itself may be taken either way,
and past a pulse that reaches it the frame is not found cut short (R3, R4; log entries 27 and 29). -/
def followsInTime (a b : LineBit) : Bool :=
  decide (a.width < b.spacing) &&
    (decide (b.spacing ≤ cutTime) || (decide (cutTime ≤ a.width) && !lineIdle (b.spacing - a.width)))

/-- Every edge follows the bit before it in time. -/
def edgesInTime : List LineBit → Bool
  | a :: b :: rest => followsInTime a b && edgesInTime (b :: rest)
  | _ => true

/-- No edge comes after this last bit until the frame is found cut short: the line is recessive at the cut time (R3). -/
def endsAtCut (bits : List LineBit) : Bool := bits.getLast?.any fun b => decide (b.width ≤ cutTime)

/-! ## Fields and bits -/

/-- The number that bits, most significant first, stand for. -/
def bitsValue (bits : List Bool) : Nat := bits.foldl (fun n b => 2 * n + b.toNat) 0

/-- The bytes that bits stand for, eight bits each, first byte first. -/
def bitsBytes : Nat → List Bool → List Byte
  | 0, _ => []
  | n + 1, bits => byteOf (bitsValue (bits.take 8)) :: bitsBytes n (bits.drop 8)

/-- One bit into the CRC register: generator 0x1021, most significant bit first (R6). -/
def crcStep (crc : BitVec 16) (bit : Bool) : BitVec 16 :=
  if crc.msb != bit then (crc <<< 1) ^^^ 0x1021 else crc <<< 1

/-- The CRC of a bit string: it starts at 0xFFFF and is not inverted (R6). -/
def crcBits (bits : List Bool) : BitVec 16 := bits.foldl crcStep 0xFFFF

/-- The CRC of a byte string, each byte most significant bit first (R6, R178). -/
def crcBytes (bytes : List Byte) : BitVec 16 := crcBits (bytes.flatMap msbFirst)

/-- The bits a check is computed over: header, length and body (R6). -/
def checkedBits (header : BitVec 12) (body : List Byte) : List Bool :=
  msbFirst header ++ msbFirst (BitVec.ofNat 4 body.length) ++ body.flatMap msbFirst

/-- The frame with this header and body, with its check (R6, R62). -/
def Frame.make (header : BitVec 12) (body : List Byte) : Frame :=
  ⟨header, body, crcBits (checkedBits header body)⟩

/-- The bits of a frame from the start bit, a 0, to the last check bit (R5). -/
def Frame.bits (f : Frame) : List Bool :=
  false :: (checkedBits f.header f.body ++ msbFirst f.check)

/-! ## Reception -/

/-- The header bits and length of the received bits; the start bit is the first. -/
def rxHeader (bits : List LineBit) : BitVec 12 :=
  BitVec.ofNat 12 (bitsValue (((bits.drop 1).take 12).map LineBit.sample))

/-- The length field (R5). -/
def rxLength (bits : List LineBit) : Nat := bitsValue (((bits.drop 13).take 4).map LineBit.sample)

/-- The start bit, the header and the length field. -/
def rxPrefixBits : Nat := 17

/-- How many bits come before the void slot, by the length read; 15 is placed as a body of 15 bytes (R5). -/
def rxFullBits (bits : List LineBit) : Nat := 33 + 8 * rxLength bits

/-- The body bytes (R5). -/
def rxBody (bits : List LineBit) : List Byte :=
  bitsBytes (rxLength bits) ((bits.drop 17).map LineBit.sample)

/-- The check field (R5, R6). -/
def rxCheck (bits : List LineBit) : BitVec 16 :=
  BitVec.ofNat 16 (bitsValue (((bits.drop (17 + 8 * rxLength bits)).take 16).map LineBit.sample))

/-- Such bits can stand on a line within a frame: no pulse is a stuck line, each edge follows in time, and each sample
is the line at its mid-bit (R2, R3, R17). -/
def rxPossible (beyond : Option Bool) (bits : List LineBit) : Bool :=
  bits.all (fun b => !lineStuck b.width) && edgesInTime bits && samplesAgree beyond bits

/-- The bits reach the void slot, whose edge may come before the last mid-bit (R5). -/
def rxComplete (bits : List LineBit) : Bool :=
  rxPossible none bits && decide (rxPrefixBits ≤ bits.length) && decide (bits.length = rxFullBits bits)

/-- The frame is cut short at or before its void slot: the line stays recessive after its last pulse (R3, R11). -/
def rxCut (bits : List LineBit) : Bool :=
  rxPossible (some true) bits && endsAtCut bits &&
    (decide (bits.length < rxPrefixBits) || decide (bits.length ≤ rxFullBits bits))

/-- A frame cut short before its length field is complete (R11). -/
def rxFragment (bits : List LineBit) : Bool := decide (bits.length < rxPrefixBits)

/-- A bit fault on any bit (R2, R3, R9). -/
def rxBitFault (bits : List LineBit) : Bool :=
  bits.any badPulse || (bits.drop 1).any (fun b => !edgeInWindow b.spacing)

/-- A check mismatch (R6). -/
def rxCheckMismatch (bits : List LineBit) : Bool :=
  crcBits (((bits.drop 1).take (16 + 8 * rxLength bits)).map LineBit.sample) != rxCheck bits

/-- The receiver finds a fault in a frame that reached its void slot (R9). -/
def rxFaulty (bits : List LineBit) : Bool :=
  rxBitFault bits || decide (rxLength bits = 15) || rxCheckMismatch bits

/-- The bits as a clean line shows them, at nominal times: how another station's frame arrives. -/
def cleanLine (bits : List Bool) : List LineBit := bits.map fun b => ⟨4000, if b then 1000 else 3000, b⟩

/-! ## Readback -/

/-- The sender lost at this bit: it sent a 1 on a header bit and sampled a 0 (R7). -/
def lostBit (position : Nat) (sent sample : Bool) : Bool :=
  decide (1 ≤ position ∧ position ≤ 12) && sent && !sample

/-- A readback fault that is found before the mid-bit sample: at the edge, or at the end of a pulse too short or too
long to be short (R2, R3, R8). -/
def earlyFault (position : Nat) (b : LineBit) : Bool :=
  (decide (0 < position) && !edgeInWindow b.spacing) || (badPulse b && decide (b.width < midBit))

/-- A readback fault on the bit numbered `position`: one found before the sample, or, on a bit that the sample does not
show as lost, a wrong sample or a bad pulse (R7, R8; log entry 19). -/
def readbackFaulty (f : Frame) (position : Nat) (b : LineBit) : Bool :=
  match f.bits[position]? with
  | none => false
  | some sent =>
    earlyFault position b || (!lostBit position sent b.sample && (sent != b.sample || badPulse b))

/-! ## Kinds and headers -/

/-- The twelve kinds (R24). -/
inductive FrameKind where
  | wake
  | call
  | cancel
  | handoff
  | theme
  | dim
  | sleep
  | query
  | status
  | presence
  | cap
  | clear
deriving DecidableEq, Repr

/-- The kind a header's kind value names; none for a foreign kind (R24). -/
def FrameKind.ofValue (v : BitVec 5) : Option FrameKind :=
  match v.toNat with
  | 0x01 => some .wake
  | 0x02 => some .call
  | 0x03 => some .cancel
  | 0x04 => some .handoff
  | 0x05 => some .theme
  | 0x06 => some .dim
  | 0x07 => some .sleep
  | 0x08 => some .query
  | 0x09 => some .status
  | 0x0A => some .presence
  | 0x0B => some .cap
  | 0x0C => some .clear
  | _ => none

/-- The body length of a kind (R24, R44). -/
def FrameKind.bodyLength : FrameKind → Nat
  | .wake => 0
  | .call => 14
  | .cancel => 4
  | .handoff => 3
  | .theme => 5
  | .dim => 2
  | .sleep => 1
  | .query => 1
  | .status => 11
  | .presence => 4
  | .cap => 1
  | .clear => 3

/-- The kind value in a header: bits 9 to 5 (R23). -/
def headerKind (h : BitVec 12) : BitVec 5 := h.extractLsb' 5 5

/-- The origin zone in a header: bits 4 to 0 (R23). -/
def headerOrigin (h : BitVec 12) : ZoneNo := h.extractLsb' 0 5

/-- The urgency the node uses for a kind it sends (R23). -/
def SendKind.urgency : SendKind → Nat
  | .cap => 0
  | .handoff => 1
  | .status => 3
  | .presence => 3

/-- The kind value of a kind the node sends (R24). -/
def SendKind.value : SendKind → Nat
  | .cap => 0x0B
  | .handoff => 0x04
  | .status => 0x09
  | .presence => 0x0A

/-- The header of a frame the node sends (R23). -/
def sendHeader (k : SendKind) (zone : ZoneNo) : BitVec 12 :=
  BitVec.ofNat 12 (k.urgency * 1024 + k.value * 32 + zone.toNat)

/-! ## Received bodies -/

/-- Byte `i` of a body. -/
def bodyByte (body : List Byte) (i : Nat) : Byte := body.getD i 0

/-- Two bytes, the high byte first (R26). -/
def word16 (hi lo : Byte) : BitVec 16 := hi ++ lo

/-- Bit `i` of a byte, bit 7 the most significant. -/
def flag (b : Byte) (i : Nat) : Bool := b.getLsbD i

/-- The field of `len` bits of a byte that ends at bit `lo`. -/
def field (b : Byte) (lo len : Nat) : BitVec len := b.extractLsb' lo len

/-- Some bit of the mask is 1: a spare bit in use (R26). -/
def spareUsed (b mask : Byte) : Bool := (b &&& mask) != 0

/-- The colour in three bytes of a body from byte `i`. -/
def bodyColour (body : List Byte) (i : Nat) : Colour :=
  ⟨bodyByte body i, bodyByte body (i + 1), bodyByte body (i + 2)⟩

/-- The effect a CALL's effect field names; 5 to 7 are illegal (R28). -/
def Effect.ofField (f : BitVec 3) : Option Effect :=
  match f.toNat with
  | 0 => some .hold
  | 1 => some .fade
  | 2 => some .sweep
  | 3 => some .breathe
  | 4 => some .chase
  | _ => none

/-- The blend a CALL's blend field names (R28). -/
def Blend.ofField (f : BitVec 2) : Blend :=
  match f.toNat with
  | 0 => .replace
  | 1 => .add
  | 2 => .max
  | _ => .dim

/-- The field legality check: none of the kind's conditions of R45 holds. -/
def fieldsLegal (k : FrameKind) (body : List Byte) : Bool :=
  match k with
  | .call =>
    bodyByte body 0 != 0 && (Effect.ofField (field (bodyByte body 1) 2 3)).isSome &&
      word16 (bodyByte body 9) (bodyByte body 10) != 0 && !spareUsed (bodyByte body 2) 0x03
  | .cancel => !spareUsed (bodyByte body 0) 0xE0 && !spareUsed (bodyByte body 2) 0xFE
  | .handoff => !spareUsed (bodyByte body 0) 0xE0 && !spareUsed (bodyByte body 2) 0xF8
  | .sleep => bodyByte body 0 != 0
  | .query => !spareUsed (bodyByte body 0) 0xE0
  | .clear => !spareUsed (bodyByte body 0) 0xE0
  | .status => !spareUsed (bodyByte body 0) 0xF8 && !spareUsed (bodyByte body 1) 0x18
  | .presence => !spareUsed (bodyByte body 0) 0xFE && !spareUsed (bodyByte body 3) 0xC0
  | .wake | .theme | .dim | .cap => true

/-- The fields of a CALL body that a layer keeps (section 2.5). -/
def callShape (body : List Byte) (effect : Effect) : Shape where
  effect := effect
  loop := flag (bodyByte body 1) 1
  long := flag (bodyByte body 1) 0
  endAction := if flag (bodyByte body 2) 7 then .drop else .keep
  blend := Blend.ofField (field (bodyByte body 2) 5 2)
  priority := field (bodyByte body 2) 2 3
  colourA := bodyColour body 3
  colourB := bodyColour body 6
  period := word16 (bodyByte body 9) (bodyByte body 10)
  width := bodyByte body 11
  handoffPoint := bodyByte body 13

/-- The body fields of a frame for the intake FIFO; none for the two roster kinds and for an illegal effect
(section 2.5, R49). -/
def bodyOrder (k : FrameKind) (body : List Byte) : Option Order :=
  match k with
  | .wake => some .wake
  | .call =>
    (Effect.ofField (field (bodyByte body 1) 2 3)).map fun e =>
      .call (bodyByte body 0) (field (bodyByte body 1) 5 3) (callShape body e) (bodyByte body 12)
  | .cancel =>
    some (.cancel (field (bodyByte body 0) 0 5) (bodyByte body 1)
      (if flag (bodyByte body 2) 0 then .fadeOut else .stop) (bodyByte body 3))
  | .handoff =>
    some (.handoff (field (bodyByte body 0) 0 5) (bodyByte body 1) (field (bodyByte body 2) 0 3))
  | .theme => some (.theme (bodyColour body 0) (bodyByte body 3) (bodyByte body 4))
  | .dim => some (.dim (bodyByte body 0) (bodyByte body 1))
  | .sleep => some (.sleep (bodyByte body 0))
  | .query => some (.query (field (bodyByte body 0) 0 5))
  | .status => some (.status body)
  | .clear => some (.clear (field (bodyByte body 0) 0 5) (word16 (bodyByte body 1) (bodyByte body 2)))
  | .presence | .cap => none

/-- The node kind in a PRESENCE body (R37, R70). -/
def presenceKind (body : List Byte) : PeerKind := if flag (bodyByte body 0) 0 then .other else .lighting

/-- The roster index of a zone; none for 31 (R69). -/
def zoneIndex (z : ZoneNo) : Option (Fin 31) := if h : z.toNat < 31 then some ⟨z.toNat, h⟩ else none

end Sys2Proof.Machine
end

