-- ==== Sys2Proof/Machine/Flags.lean ====
section
/-! DEFINITION. The status block: the sixteen notices, their groups, raising, clearing and the clear marks of a
PRESENCE in flight (chapter 12). -/

namespace Sys2Proof.Machine

/-- The sixteen notices (R187). -/
inductive Notice where
  | intakeOverrun
  | badBody
  | cueDisplaced
  | cueRefused
  | layerEvicted
  | layerRefused
  | sendDropped
  | listenOnlyEntered
  | lineStuck
  | voteMuted
  | bitFault
  | twinZone
  | supplySag
  | supplyDeep
  | portFault
  | frameSkipped
deriving DecidableEq, Repr

/-- The bit number of a notice (R187). -/
def Notice.number : Notice → Nat
  | .intakeOverrun => 0
  | .badBody => 1
  | .cueDisplaced => 2
  | .cueRefused => 3
  | .layerEvicted => 4
  | .layerRefused => 5
  | .sendDropped => 6
  | .listenOnlyEntered => 7
  | .lineStuck => 8
  | .voteMuted => 9
  | .bitFault => 10
  | .twinZone => 11
  | .supplySag => 12
  | .supplyDeep => 13
  | .portFault => 14
  | .frameSkipped => 15

/-- The three groups (R187). -/
inductive NoticeGroup where
  | cue
  | bus
  | output
deriving DecidableEq, Repr

/-- The group of a notice (R187). -/
def Notice.group : Notice → NoticeGroup
  | .intakeOverrun | .badBody | .cueDisplaced | .cueRefused | .layerEvicted | .layerRefused => .cue
  | .sendDropped | .listenOnlyEntered | .lineStuck | .voteMuted | .bitFault | .twinZone => .bus
  | .supplySag | .supplyDeep | .portFault | .frameSkipped => .output

/-- The flag of a group. -/
def GroupFlags.get (f : GroupFlags) : NoticeGroup → Bool
  | .cue => f.cue
  | .bus => f.bus
  | .output => f.output

/-- The flags with one group's flag set to `v`. -/
def GroupFlags.put (f : GroupFlags) (v : Bool) : NoticeGroup → GroupFlags
  | .cue => { f with cue := v }
  | .bus => { f with bus := v }
  | .output => { f with output := v }

/-- The flags that are set here and not in `marks`. -/
def GroupFlags.without (f marks : GroupFlags) : GroupFlags :=
  ⟨f.cue && !marks.cue, f.bus && !marks.bus, f.output && !marks.output⟩

/-- The bit of a notice in the notice word (R36, R187). -/
def Notice.bit (n : Notice) : BitVec 16 := 1#16 <<< n.number

/-- The bits of a group's notices (R187). -/
def NoticeGroup.mask : NoticeGroup → BitVec 16
  | .cue => 0x003F
  | .bus => 0x0FC0
  | .output => 0xF000

/-- Whether a notice is set. -/
def State.hasNotice (s : State) (n : Notice) : Bool := s.status.notices.getLsbD n.number

/-- The group-outstanding flags, read from the notices (R187). -/
def outstanding (notices : BitVec 16) : GroupFlags :=
  ⟨(notices &&& NoticeGroup.mask .cue) != 0, (notices &&& NoticeGroup.mask .bus) != 0,
    (notices &&& NoticeGroup.mask .output) != 0⟩

/-- An entry without its clear mark for a group (R188). -/
def SendEntry.unmark (g : NoticeGroup) (e : SendEntry) : SendEntry :=
  { e with clearMarks := e.clearMarks.put false g }

/-- The status block after a raise: the flag and the group-new flag are set (R187). -/
def Status.raise (st : Status) (n : Notice) : Status :=
  ⟨st.notices ||| n.bit, st.groupNew.put true n.group⟩

/-- Raising a notice; a clear mark of its group is removed (R187, R188). Marks stand only in the entry in
flight, so taking them from every entry takes them from that one. -/
def State.raise (s : State) (n : Notice) : State :=
  { s with
    status := s.status.raise n
    out := { s.out with entries := s.out.entries.map (SendEntry.unmark n.group) } }

/-- Raising a notice when a condition holds. -/
def State.raiseIf (s : State) (c : Bool) (n : Notice) : State := if c then s.raise n else s

/-- The notices named by a mask are cleared; the group-new flags stay (R190). -/
def State.clearNotices (s : State) (mask : BitVec 16) : State :=
  { s with status := { s.status with notices := s.status.notices &&& ~~~mask } }

end Sys2Proof.Machine
end

