-- ==== Sys2Proof/Machine/Ops.lean ====
section
/-! DEFINITION. Operations shared by several commands: the show clock and its deadlines, the linear steps of ramps,
fades and blends, the outgoing queue (chapter 4), the cap target and applied level (chapter 5), and the taking of
intake entries (chapter 3). -/

namespace Sys2Proof.Machine

/-! ## Time -/

/-- The show clock value `ms` later, modulo 2^32 (R121). -/
def later (c : Clock) (ms : Nat) : Clock := c + BitVec.ofNat 32 ms

/-- The age of a stamp: now minus the stamp, modulo 2^32 (00_scope.md, R121). -/
def age (now stamp : Clock) : Nat := (now - stamp).toNat

/-- The clock has reached the deadline: ages and deadlines are worked modulo 2^32 and are meaningful up to 2^31 ms
(R100, R121, R122; log entry 4). -/
def reached (now deadline : Clock) : Bool := decide (age now deadline < 2 ^ 31)

/-- A deadline that is present and reached; an absent one never expires. -/
def due (now : Clock) (deadline : Option Clock) : Bool := deadline.any (reached now)

/-- The node takes frames, timers and band events: ACTIVE or DRAINING. -/
def State.running (s : State) : Bool :=
  match s.nodeState with
  | .active | .draining _ => true
  | .starting _ | .halted | .asleep | .waking => false

/-- The node state is DRAINING. -/
def State.isDraining (s : State) : Bool :=
  match s.nodeState with
  | .draining _ => true
  | .starting _ | .halted | .active | .asleep | .waking => false

/-- The presence interval P in milliseconds (R72, R178). -/
def presenceInterval (c : NodeConfig) : Nat := 50 * c.presenceCount

/-! ## Linear steps -/

/-- `from + trunc((to − from) × j / t)`: the step of FADE, BREATHE, REPLACE, dimmer ramps and base transitions
(R80, R140, R142, R151, R154). -/
def glide (start target : Byte) (j t : Nat) : Byte :=
  byteOf ((start.toNat : Int) + (((target.toNat : Int) - start.toNat) * j).tdiv t).toNat

/-- `floor(a × b / 255)` (R83, R149, R154). -/
def scale255 (a b : Byte) : Byte := byteOf (a.toNat * b.toNat / 255)

/-- `glide` in each channel. -/
def glideColour (start target : Colour) (j t : Nat) : Colour :=
  ⟨glide start.red target.red j t, glide start.green target.green j t, glide start.blue target.blue j t⟩

/-- `scale255` in each channel. -/
def scaleColour (c : Colour) (b : Byte) : Colour := ⟨scale255 c.red b, scale255 c.green b, scale255 c.blue b⟩

/-! ## The outgoing queue -/

/-- The attempts a kind is given at joining or renewal (R58). -/
def SendKind.budget : SendKind → Nat
  | .cap => 3
  | .handoff => 3
  | .status => 1
  | .presence => 1

/-- A request of the queue: a kind, and for a HANDOFF its key and route (section 4.2). -/
structure Request where
  kind : SendKind
  wave : Option Wave
deriving DecidableEq, Repr

/-- The request for a report of this kind. -/
def Request.report (k : SendKind) : Request := ⟨k, none⟩

/-- The request for the HANDOFF of a key and route. -/
def Request.handoff (key : CueKey) (route : BitVec 3) : Request := ⟨.handoff, some ⟨key, route⟩⟩

/-- The entry stands for the request: the same kind, and for a HANDOFF the same key (R56). -/
def SendEntry.answers (e : SendEntry) (r : Request) : Bool :=
  decide (e.kind = r.kind) && decide (e.wave.map Wave.key = r.wave.map Wave.key)

/-- Folding a request into its entry: an entry in flight, other than a HANDOFF, is given a renew mark (R57). -/
def SendEntry.fold (r : Request) (e : SendEntry) : SendEntry :=
  if e.answers r && e.inFlight && decide (r.kind ≠ .handoff) then { e with renew := true } else e

/-- A new entry for a request (R58). -/
def SendEntry.fresh (zone : ZoneNo) (order : Nat) (r : Request) : SendEntry where
  kind := r.kind
  header := sendHeader r.kind zone
  order := order
  budget := r.kind.budget
  wave := r.wave
  inFlight := false
  renew := false
  withdrawn := false
  clearMarks := GroupFlags.clear

/-- A joining entry takes its place by header value, behind entries of an equal one (R55). -/
def insertEntry (e : SendEntry) : List SendEntry → List SendEntry
  | [] => [e]
  | x :: xs => if e.header.toNat < x.header.toNat then e :: x :: xs else x :: insertEntry e xs

/-- A new entry for the request joins (R58). -/
def OutQueue.join (q : OutQueue) (zone : ZoneNo) (r : Request) : OutQueue :=
  ⟨insertEntry (SendEntry.fresh zone q.nextOrder r) q.entries, q.nextOrder + 1⟩

/-- The entries without the one of this entry order. -/
def removeOrder (order : Nat) (es : List SendEntry) : List SendEntry := es.filter fun e => decide (e.order ≠ order)

/-- The first entry of a kind that is not in flight. -/
def freeEntry (k : SendKind) (es : List SendEntry) : Option SendEntry :=
  es.find? fun e => decide (e.kind = k) && !e.inFlight

/-- The latest in entry order of the HANDOFFs not in flight (R60). -/
def latestHandoff (es : List SendEntry) : Option SendEntry :=
  (es.filter fun e => decide (e.kind = .handoff) && !e.inFlight).foldl
    (fun best e => match best with
      | none => some e
      | some b => if b.order < e.order then some e else some b) none

/-- The entry that a request finding the queue full evicts (R59, R60, R61). -/
def victim (k : SendKind) (es : List SendEntry) : Option SendEntry :=
  match k with
  | .handoff => (freeEntry .status es).or (freeEntry .presence es)
  | .cap => ((freeEntry .status es).or (freeEntry .presence es)).or (latestHandoff es)
  | .status | .presence => none

/-- The queue takes requests: ACTIVE or DRAINING, and SPEAKING (R56). -/
def State.takesRequests (s : State) : Bool := s.running && decide (s.bus.standing = .speaking)

/-- A request of the outgoing queue: folded, admitted, made room for, or refused (R56 to R61). -/
def State.request (s : State) (r : Request) : State :=
  if !s.takesRequests then s
  else if s.out.entries.any (·.answers r) then
    { s with out := { s.out with entries := s.out.entries.map (SendEntry.fold r) } }
  else if s.out.entries.length < 4 then { s with out := s.out.join s.config.zone r }
  else match victim r.kind s.out.entries with
    | some v =>
      let s := { s with out := { s.out with entries := removeOrder v.order s.out.entries } }.raise .sendDropped
      { s with out := s.out.join s.config.zone r }
    | none => s.raise .sendDropped

/-- The whole queue is discarded; SEND_DROPPED is raised if it held an entry (R15, R17, R67). -/
def State.discardQueue (s : State) : State :=
  { s with out := { s.out with entries := [] } }.raiseIf (!s.out.entries.isEmpty) .sendDropped

/-- The entry in flight. -/
def State.inFlightEntry (s : State) : Option SendEntry := s.out.entries.find? SendEntry.inFlight

/-- The entry in flight is settled by `f`: kept as `f` gives it, or removed. -/
def settleInFlight (f : SendEntry → Option SendEntry) (es : List SendEntry) : List SendEntry :=
  es.filterMap fun e => if e.inFlight then f e else some e

/-- An entry at rest: not in flight, renew mark and clear marks dropped (R63 to R65, R188). -/
def SendEntry.rest (e : SendEntry) : SendEntry :=
  { e with inFlight := false, renew := false, clearMarks := GroupFlags.clear }

/-- The entry with the budget of its kind again (R63, R64). -/
def SendEntry.renewed (e : SendEntry) : SendEntry := { e.rest with budget := e.kind.budget }

/-- What a SENT outcome leaves of the entry (R63, R66). -/
def afterSent (e : SendEntry) : Option SendEntry :=
  if e.withdrawn then none else if e.renew then some e.renewed else none

/-- What a VOIDED outcome leaves of the entry (R64, R66). -/
def afterVoided (e : SendEntry) : Option SendEntry :=
  if e.withdrawn then none
  else if 1 < e.budget then some { e.rest with budget := e.budget - 1 }
  else if e.renew then some e.renewed
  else none

/-- A VOIDED outcome drops the entry with SEND_DROPPED (R64). -/
def voidDrops (e : SendEntry) : Bool := !e.withdrawn && decide (e.budget ≤ 1) && !e.renew

/-- What a LOST outcome leaves of the entry (R65, R66). -/
def afterLost (e : SendEntry) : Option SendEntry := if e.withdrawn then none else some e.rest

/-- The queue settles the entry in flight by `f`. -/
def State.settle (s : State) (f : SendEntry → Option SendEntry) : State :=
  { s with out := { s.out with entries := settleInFlight f s.out.entries } }

/-- The queue's part of a VOIDED outcome (R64). -/
def State.settleVoided (s : State) : State :=
  (s.settle afterVoided).raiseIf (s.inFlightEntry.any voidDrops) .sendDropped

/-- The HANDOFFs of the cancelled keys leave the queue, or are marked withdrawn in flight (R66). -/
def withdrawKeys (keys : List CueKey) (es : List SendEntry) : List SendEntry :=
  es.filterMap fun e =>
    match e.wave with
    | some w =>
      if keys.contains w.key then (if e.inFlight then some { e with withdrawn := true } else none) else some e
    | none => some e

/-! ## Cap target and applied level -/

/-- The floored cap of a roster entry, if it is PRESENT with kind LIGHTING (R77). -/
def flooredCap (floor : Byte) (e : Option Peer) : Option Byte :=
  match e with
  | some p => if p.kind = .lighting then some (higher floor p.cap) else none
  | none => none

/-- The cap target K*: the smallest of the own cap and all floored caps (R77). -/
def capTarget (ownCap floor : Byte) (entries : List (Option Peer)) : Byte :=
  (entries.filterMap (flooredCap floor)).foldl lower ownCap

/-- K* as the node's own cap, F and roster give it now. -/
def State.target (s : State) : Byte := capTarget s.supply.ownCap s.config.floor s.roster.entries.toList

/-- A is formed afresh: the lower of D and K (R82). -/
def Level.formA (l : Level) : Level := { l with a := lower l.d l.k }

/-- K meets a K* just formed: it falls at once, stays, or begins a slew (R78, R79). -/
def Level.meet (l : Level) (target : Byte) (now : Clock) : Level :=
  if target.toNat ≤ l.k.toNat then { l with k := target, slewDeadline := none }.formA
  else { l with slewDeadline := some (l.slewDeadline.getD (later now 10)) }

/-- The level unit forms K* afresh and applies it to K (R77 to R79). -/
def State.formTarget (s : State) : State := { s with level := s.level.meet s.target s.showClock }

/-! ## The intake -/

/-- The length of a handling in µs (R50). -/
def handlingMicros : Nat := 400

/-- The cue engine takes the head of the FIFO into an empty handling slot (R50). -/
def Intake.take (i : Intake) (now : Clock) : Intake :=
  match i.slot, i.fifo with
  | none, e :: rest => { i with fifo := rest, slot := some ⟨e, ⟨now, handlingMicros⟩⟩ }
  | _, _ => i

/-- Delivery to the intake FIFO: the frame joins its tail, and is taken at once if the slot is empty (R48, R50). -/
def State.deliver (s : State) (e : IntakeEntry) : State :=
  if s.intake.fifo.length < 4 then
    { s with intake := { s.intake with fifo := s.intake.fifo ++ [e] }.take s.showClock }
  else s.raise .intakeOverrun

/-- The order in the handling slot, with its header origin. -/
def State.handled (s : State) : Option IntakeEntry := s.intake.slot.map Handling.entry

/-- A handling completes: the slot empties, the effect takes hold, and the head of the FIFO is taken (R50). -/
def State.complete (s : State) (effect : State → State) : State :=
  let s' := effect { s with intake := { s.intake with slot := none } }
  { s' with intake := s'.intake.take s'.showClock }

/-! ## The roster -/

/-- The roster entry of a zone; zone 31 has none (R69). -/
def State.peer (s : State) (z : ZoneNo) : Option Peer := (zoneIndex z).bind fun i => s.roster.entries[i]

/-- The roster entry of a zone is ABSENT (R69, R107). -/
def State.isAbsent (s : State) (z : ZoneNo) : Bool := (s.peer z).isNone

/-- The absence time 3P (R69, R72). -/
def State.absenceTime (s : State) : Nat := 3 * presenceInterval s.config

/-- The roster with one entry set. -/
def State.setPeer (s : State) (i : Fin 31) (p : Option Peer) : State :=
  { s with roster := { s.roster with entries := s.roster.entries.set i p } }

end Sys2Proof.Machine
end

