-- ==== Sys2Proof/Machine/Bodies.lean ====
section
/-! DEFINITION. The frames the node sends: the bodies of STATUS, PRESENCE, CAP and HANDOFF as they are filled at the
start of an attempt (R36 to R39, R62 and section 2.5). -/

namespace Sys2Proof.Machine

/-- The code of a node state (R36). -/
def NodeState.code : NodeState → Nat
  | .starting _ => 0
  | .halted => 1
  | .active => 2
  | .draining _ => 3
  | .asleep => 4
  | .waking => 5

/-- The code of a standing (R36). -/
def Standing.code : Standing → Nat
  | .speaking => 0
  | .listenOnly => 1
  | .silent => 2

/-- The code of a supply state (R36, R87). -/
def SupplyState.code : SupplyState → Nat
  | .normal => 0
  | .sagPending => 1
  | .sag => 2
  | .recoverPending => 3
  | .deep => 4

/-- The code of a port state (R36, R163). -/
def PortState.code : PortState → Nat
  | .off => 0
  | .idle | .shifting | .awaitEcho => 1
  | .faulted => 2
  | .dark => 3

/-- Byte 1 of a STATUS: standing, vote muted, supply state. -/
def State.conditionByte (s : State) : Byte :=
  byteOf (s.bus.standing.code * 64 + s.bus.muted.toNat * 32 + s.supply.state.code)

/-- Byte 8 of a STATUS: the port states, S0 lowest. -/
def State.portsByte (s : State) : Byte :=
  byteOf (s.ports[3].state.code * 64 + s.ports[2].state.code * 16 + s.ports[1].state.code * 4 + s.ports[0].state.code)

/-- The body of a STATUS (R36). -/
def State.statusBody (s : State) : List Byte :=
  [byteOf s.nodeState.code, s.conditionByte, byteOf s.cues.length, byteOf s.stack.layers.length, s.supply.ownCap,
    s.level.k, s.level.d, s.level.a, s.portsByte, s.status.notices.extractLsb' 8 8,
    s.status.notices.extractLsb' 0 8]

/-- Three group flags in three bits: OUTPUT, BUS, CUE. -/
def GroupFlags.code (f : GroupFlags) : Nat := f.output.toNat * 4 + f.bus.toNat * 2 + f.cue.toNat

/-- The body of a PRESENCE (R37). -/
def State.presenceBody (s : State) : List Byte :=
  [0, s.supply.ownCap, byteOf (s.cues.length * 16 + s.stack.layers.length),
    byteOf ((outstanding s.status.notices).code * 8 + s.status.groupNew.code)]

/-- The body of a HANDOFF: cue origin, tag, route (R39). -/
def Wave.body (w : Wave) : List Byte := [byteOf w.key.origin.toNat, w.key.tag, byteOf w.route.toNat]

/-- The body of an entry's frame (R62). -/
def State.bodyOf (s : State) (e : SendEntry) : List Byte :=
  match e.kind with
  | .cap => [s.supply.ownCap]
  | .status => s.statusBody
  | .presence => s.presenceBody
  | .handoff => (e.wave.map Wave.body).getD []

/-- The frame of an attempt of this entry (R62). -/
def State.frameOf (s : State) (e : SendEntry) : Frame := Frame.make e.header (s.bodyOf e)

/-- The head as its attempt begins: in flight, a PRESENCE with a clear mark for each group that is new (R62, R188). -/
def State.launched (s : State) (e : SendEntry) : SendEntry :=
  { e with
    inFlight := true
    clearMarks := if e.kind = .presence then s.status.groupNew else GroupFlags.clear }

end Sys2Proof.Machine
end

