-- ==== Sys2Proof/Machine/Compose.lean ====
section
/-! DEFINITION. The five effects, the blends, the zone path and the composed frame of a port (sections 8.7, 9.1,
9.3 and 9.4). -/

namespace Sys2Proof.Machine

/-! ## Effects -/

/-- The front G: floor(N × p / period) (R139). -/
def front (n phase period : Nat) : Nat := n * phase / period

/-- The effect index of path index `i` (R139). -/
def effectIndex (reverse : Bool) (n i : Nat) : Nat := if reverse then n - 1 - i else i

/-- The factor t of BREATHE (R142). -/
def breatheFactor (phase period : Nat) : Nat :=
  if 2 * phase ≤ period then 510 * phase / period else 510 * (period - phase) / period

/-- The look of SWEEP at effect index `e`; its final look is the whole path in B (R141). -/
def sweepLook (sh : Shape) (phase n e : Nat) : Option Colour :=
  let g := front n phase sh.period.toNat
  if phase = sh.period.toNat then some sh.colourB
  else if e < g then some (if g - e ≤ sh.width.toNat then sh.colourA else sh.colourB)
  else none

/-- The look of CHASE at effect index `e` (R143). -/
def chaseLook (sh : Shape) (phase n e : Nat) : Colour :=
  let g := front n phase sh.period.toNat
  if (((e : Int) - g) % n).toNat < max sh.width.toNat 1 then sh.colourA else sh.colourB

/-- The colour an effect gives a path pixel, or none where it leaves the pixel uncovered (R139 to R143); at a
phase equal to the period it is the final look (R126, R144). -/
def effectLook (sh : Shape) (reverse : Bool) (phase n i : Nat) : Option Colour :=
  match sh.effect with
  | .hold => some sh.colourA
  | .fade => some (glideColour sh.colourA sh.colourB phase sh.period.toNat)
  | .sweep => sweepLook sh phase n (effectIndex reverse n i)
  | .breathe => some (glideColour sh.colourB sh.colourA (breatheFactor phase sh.period.toNat) 255)
  | .chase => some (chaseLook sh phase n (effectIndex reverse n i))

/-- The look of a layer at path index `i` of a path of `n` pixels (R144). -/
def Layer.look (l : Layer) (n i : Nat) : Option Colour := effectLook l.shape l.reverse l.phase n i

/-! ## Blends -/

/-- One channel of a blend (R154). -/
def blendChannel (b : Blend) (below l opacity : Byte) : Byte :=
  match b with
  | .replace => glide below l opacity.toNat 255
  | .add => byteOf (min 255 (below.toNat + l.toNat * opacity.toNat / 255))
  | .max => higher below (scale255 l opacity)
  | .dim => byteOf (below.toNat * (255 - (255 - l.toNat) * opacity.toNat / 255) / 255)

/-- A blend in each channel. -/
def blendColour (b : Blend) (below l : Colour) (opacity : Byte) : Colour :=
  ⟨blendChannel b below.red l.red opacity, blendChannel b below.green l.green opacity,
    blendChannel b below.blue l.blue opacity⟩

/-! ## The zone path -/

/-- The path length N (R146). -/
def pathLength (gs : List Segment) : Nat := (gs.map Segment.count).sum

/-- The segment covers this pixel of this port (R146). -/
def Segment.covers (g : Segment) (port : Fin 4) (pixel : Nat) : Bool :=
  decide (g.port = port ∧ g.first ≤ pixel ∧ pixel < g.first + g.count)

/-- The position of a covered port pixel within its segment (R147). -/
def segmentPosition (g : Segment) (pixel : Nat) : Nat :=
  if g.reversed then g.first + g.count - 1 - pixel else pixel - g.first

/-- The path index that a port pixel shows, the offset counted from `offset`; none off the path (R147, R148). -/
def pathIndex (port : Fin 4) (pixel : Nat) : List Segment → Nat → Option Nat
  | [], _ => none
  | g :: gs, offset =>
    if Segment.covers g port pixel then some (offset + segmentPosition g pixel)
    else pathIndex port pixel gs (offset + g.count)

/-! ## Composition -/

/-- The base colour (R149). -/
def Base.shown (b : Base) : Colour := scaleColour b.current.colour b.current.level

/-- One layer laid over the value built up so far (R155). -/
def Layer.over (l : Layer) (n i : Nat) (below : Colour) : Colour :=
  match l.look n i with
  | some c => blendColour l.shape.blend below c l.opacity
  | none => below

/-- The composite of a path pixel: the base, then the layers from the bottom up (R155). -/
def composite (base : Base) (layers : List Layer) (n i : Nat) : Colour :=
  layers.foldl (fun below l => l.over n i below) base.shown

/-- The output of a port pixel: its composite scaled by A, or 0 off the path (R83, R148, R156). -/
def State.pixel (s : State) (port : Fin 4) (pixel : Nat) : Colour :=
  match pathIndex port pixel s.config.segments 0 with
  | some i => scaleColour (composite s.base s.stack.layers (pathLength s.config.segments) i) s.level.a
  | none => Colour.black

/-- The composed frame of a port (R157). -/
def State.compose (s : State) (port : Fin 4) : PixelFrame :=
  (List.range s.config.ports[port].pixels).map (s.pixel port)

end Sys2Proof.Machine
end

