-- ==== Sys2Proof/Machine/Ports.lean ====
section
/-! DEFINITION. The string ports: frame events and change detection, sends, the echo check, faulted ports, the dark
order and the return to work (chapter 10), and the commands PORT_FRAME_EVENT, SEND_FINISH, MARKER_SHIFTED,
ECHO_ARRIVAL, ECHO_TIMEOUT, PROBE_DEADLINE and DARK_FRAME_SENT. -/

namespace Sys2Proof.Machine

/-- The state with one port set. -/
def State.setPort (s : State) (p : Fin 4) (x : Port) : State := { s with ports := s.ports.set p x }

/-- The µs from the beginning of a send to the end of its shift, with the latch gap of a STREAM send and the marker of
a CONFIRMED one (R162). -/
def shiftMicros (c : PortConfig) : Nat :=
  match c.type with
  | .stream => c.pixels * (if c.slow then 60 else 30) + 300
  | .confirmed => c.pixels * 12 + 16
  | .off | .pwm => 0

/-- The longest echo wait in µs (R169). -/
def echoMicros : Nat := 2000

/-- The duration of a whole send in µs, of a CONFIRMED send at most (R162). -/
def sendMicros (c : PortConfig) : Nat := shiftMicros c + if c.type = .confirmed then echoMicros else 0

/-- The dark frame: every pixel at 0 (R173). -/
def darkFrame (c : PortConfig) : PixelFrame := List.replicate c.pixels Colour.black

/-- The marker of a send: 0x5A, the port number, and the send count, high byte first (R169). -/
def marker (p : Fin 4) (sendCount : BitVec 16) : BitVec 32 := 0x5A#8 ++ BitVec.ofNat 8 p.val ++ sendCount

/-- The bits of a pixel as they go out: red, green, blue, each most significant bit first (R162). -/
def Colour.bits (c : Colour) : List Bool := msbFirst c.red ++ msbFirst c.green ++ msbFirst c.blue

/-- The bits of a send: pixel 0 first, and on a CONFIRMED port the marker after the last pixel (R162, R169). -/
def sendBits (t : PortType) (p : Fin 4) (f : PixelFrame) (count : BitVec 16) : List Bool :=
  f.flatMap Colour.bits ++ if t = .confirmed then msbFirst (marker p count) else []

/-- Channel `k` of a PWM frame: red, green, blue of each pixel in turn; 0 beyond the frame (R161, R168). -/
def pwmChannel (f : PixelFrame) (k : Nat) : Byte :=
  match f[k / 3]? with
  | none => 0
  | some c => match k % 3 with
    | 0 => c.red
    | 1 => c.green
    | _ => c.blue

/-- The twelve channels of a PWM frame (R168). -/
def pwmChannels (f : PixelFrame) : Vector Byte 12 := Vector.ofFn fun k => pwmChannel f k

/-! ## Sends -/

/-- What a send's beginning does on every type: the last-sent frame, the refresh deadline, the forced send, the
slot, and on a CONFIRMED port the send count (R167). -/
def Port.record (x : Port) (c : PortConfig) (now : Clock) (f : PixelFrame) : Port :=
  { x with
    slot := none
    lastSent := some f
    refreshDeadline := some (later now c.refreshInterval)
    forced := false
    sendCount := if c.type = .confirmed then x.sendCount + 1 else x.sendCount }

/-- A shift that begins now (R162). -/
def Shift.start (c : PortConfig) (now : Clock) (f : PixelFrame) (count : BitVec 16) : Shift :=
  ⟨f, count, ⟨now, shiftMicros c⟩⟩

/-- The shift of a send or a probe begins; its marker is formed from the send count just stepped (R167, R171). -/
def Port.launch (x : Port) (c : PortConfig) (now : Clock) (f : PixelFrame) : Port :=
  let y := x.record c now f
  { y with
    activity := .shifting
    shift := some (Shift.start c now f y.sendCount)
    checkEcho := true
    echoTimeout := none }

/-- A send begins on a chain (R167). -/
def Port.beginSend (x : Port) (c : PortConfig) (now : Clock) (f : PixelFrame) : Port :=
  { x.launch c now f with state := .shifting }

/-- A send finishes: the waiting frame's send begins, or the port becomes IDLE (R167). -/
def Port.finish (x : Port) (c : PortConfig) (now : Clock) : Port :=
  match x.slot with
  | some f => x.beginSend c now f
  | none => { x with state := .idle, activity := .none, shift := none, echoTimeout := none }

/-! ## Frame events -/

/-- Change detection keeps a composed frame (R165). -/
def Port.keeps (x : Port) (now : Clock) (f : PixelFrame) : Bool :=
  !(x.lastSent == some f && x.refreshDeadline.any (fun d => !reached now d) && !x.forced)

/-- The next frame deadline keeps the rhythm (R164). -/
def Port.nextFrame (x : Port) (c : PortConfig) : Port :=
  { x with frameDeadline := x.frameDeadline.map fun d => later d c.framePeriod }

/-- A kept frame goes on by the port's state and type (R166, R168). -/
def State.post (s : State) (p : Fin 4) (f : PixelFrame) : State :=
  let x := s.ports[p]
  let c := s.config.ports[p]
  match x.state with
  | .idle =>
    if c.type = .pwm then { s.setPort p (x.record c s.showClock f) with pwm := pwmChannels f }
    else s.setPort p (x.beginSend c s.showClock f)
  | .shifting | .awaitEcho =>
    (s.setPort p { x with slot := some f }).raiseIf x.slot.isSome .frameSkipped
  | .off | .faulted | .dark => s

/-- A frame event in a working port: the frame is composed and passes change detection (R164, R165). -/
def State.frameEvent (s : State) (p : Fin 4) : State :=
  let f := s.compose p
  if s.ports[p].keeps s.showClock f then s.post p f else s

/-- The port state has frame events that compose a frame (R163). -/
def PortState.working : PortState → Bool
  | .idle | .shifting | .awaitEcho => true
  | .off | .faulted | .dark => false

/-- PORT_FRAME_EVENT: in FAULTED only the deadline moves on (R164). -/
def portFrameEvent (p : Fin 4) (s : State) : State :=
  let x := s.ports[p]
  if s.running && due s.showClock x.frameDeadline then
    let s' := s.setPort p (x.nextFrame s.config.ports[p])
    if x.state.working then s'.frameEvent p else s'
  else s

/-! ## Ends of shifts -/

/-- The port begins to shift its dark frame, with a marker of the send count as it is (R173). -/
def Port.beginDark (x : Port) (c : PortConfig) (now : Clock) : Port :=
  { x with
    activity := .darkShifting
    shift := some (Shift.start c now (darkFrame c) x.sendCount)
    echoTimeout := none }

/-- SEND_FINISH: the latch gap of a STREAM shift ends; a DARK port's dark frame follows it (R167, R173). -/
def sendFinish (p : Fin 4) (s : State) : State :=
  let x := s.ports[p]
  let c := s.config.ports[p]
  if s.running && decide (c.type = .stream) && decide (x.activity = .shifting) then
    match x.state with
    | .shifting => s.setPort p (x.finish c s.showClock)
    | .dark => s.setPort p (x.beginDark c s.showClock)
    | .off | .idle | .awaitEcho | .faulted => s
  else s

/-- The echo wait begins, with its 2 ms timeout (R169). -/
def Port.beginEchoWait (x : Port) (now : Clock) : Port :=
  { x with activity := .echoWait, shift := none, echoTimeout := some ⟨now, echoMicros⟩ }

/-- MARKER_SHIFTED: the marker of a CONFIRMED shift has gone out; the echo wait begins, or a shift with no echo check
finishes its send, or the dark frame follows (R167, R169, R171, R173, R174). -/
def markerShifted (p : Fin 4) (s : State) : State :=
  let x := s.ports[p]
  let c := s.config.ports[p]
  if s.running && decide (c.type = .confirmed) && decide (x.activity = .shifting) then
    match x.state with
    | .shifting =>
      if x.checkEcho then s.setPort p { x.beginEchoWait s.showClock with state := .awaitEcho }
      else s.setPort p (x.finish c s.showClock)
    | .faulted => s.setPort p (x.beginEchoWait s.showClock)
    | .dark => s.setPort p (x.beginDark c s.showClock)
    | .off | .idle | .awaitEcho => s
  else s

/-- DARK_FRAME_SENT: the dark frame has been sent and the port reports that it is dark (R173). -/
def darkFrameSent (p : Fin 4) (s : State) : State :=
  let x := s.ports[p]
  if s.running && decide (x.state = .dark) && decide (x.activity = .darkShifting) then
    s.setPort p { x with activity := .none, shift := none, reportedDark := true }
  else s

/-! ## The echo check -/

/-- The port becomes FAULTED (R170). -/
def Port.fault (x : Port) (now : Clock) : Port :=
  { x with
    state := .faulted
    activity := .none
    shift := none
    slot := none
    forced := false
    failureRun := 3
    probeDeadline := some (later now 1000)
    echoTimeout := none }

/-- A correct echo of a send, or of a probe, which brings the port back (R169, R171). -/
def Port.echoCorrect (x : Port) (c : PortConfig) (now : Clock) : Port :=
  if x.state = .faulted then
    { x with
      state := .idle
      activity := .none
      shift := none
      failureRun := 0
      probeDeadline := none
      forced := true
      echoTimeout := none }
  else { x with failureRun := 0 }.finish c now

/-- A failed echo check: a probe leaves the port FAULTED; the third failure in a row makes it FAULTED; another sets
the forced send pending and finishes the send (R169 to R171). -/
def State.echoFailed (s : State) (p : Fin 4) : State :=
  let x := s.ports[p]
  if x.state = .faulted then s.setPort p { x with activity := .none, shift := none, echoTimeout := none }
  else if 2 ≤ x.failureRun then (s.setPort p (x.fault s.showClock)).raise .portFault
  else s.setPort p ({ x with failureRun := x.failureRun + 1, forced := true }.finish s.config.ports[p] s.showClock)

/-- The port is in the echo wait of a send or of a probe. -/
def State.awaitsEcho (s : State) (p : Fin 4) : Bool :=
  let x := s.ports[p]
  s.running && decide (x.activity = .echoWait) && (decide (x.state = .awaitEcho) || decide (x.state = .faulted))

/-- ECHO_ARRIVAL: 32 echo bits are compared with the marker of the current send (R169). -/
def echoArrival (p : Fin 4) (echo : BitVec 32) (s : State) : State :=
  let x := s.ports[p]
  if s.awaitsEcho p then
    if echo = marker p x.sendCount then s.setPort p (x.echoCorrect s.config.ports[p] s.showClock)
    else s.echoFailed p
  else s

/-- ECHO_TIMEOUT: 2 ms passed with fewer than 32 bits (R169). -/
def echoTimeout (p : Fin 4) (s : State) : State := if s.awaitsEcho p then s.echoFailed p else s

/-- The probe of a FAULTED port begins: a CONFIRMED send that leaves the port FAULTED (R171). -/
def Port.beginProbe (x : Port) (c : PortConfig) (now : Clock) (f : PixelFrame) : Port :=
  { x.launch c now f with probeDeadline := x.probeDeadline.map fun d => later d 1000 }

/-- PROBE_DEADLINE: a probe frame is composed and sent (R171). -/
def probeDeadline (p : Fin 4) (s : State) : State :=
  let x := s.ports[p]
  if s.running && decide (x.state = .faulted) && due s.showClock x.probeDeadline then
    s.setPort p (x.beginProbe s.config.ports[p] s.showClock (s.compose p))
  else s

/-! ## Dark ports and the return to work -/

/-- What the dark order leaves on every port (R173). -/
def Port.darken (x : Port) (c : PortConfig) : Port :=
  { x with
    state := .dark
    slot := none
    lastSent := some (darkFrame c)
    refreshDeadline := none
    frameDeadline := none
    failureRun := 0
    probeDeadline := none
    echoTimeout := none
    reportedDark := false }

/-- The dark order at one port (R173): an OFF or PWM port is dark at once; a shift in progress runs to its end; any
other chain begins its dark frame. -/
def Port.darkOrder (x : Port) (c : PortConfig) (now : Clock) : Port :=
  if x.state = .dark then x
  else match c.type with
    | .off | .pwm => { x.darken c with activity := .none, shift := none, reportedDark := true }
    | .stream | .confirmed =>
      if x.activity = .shifting then x.darken c else (x.darken c).beginDark c now

/-- The dark order at every port; a PWM port's channels go to duty 0 (R173, R184). -/
def State.darkPorts (s : State) : State :=
  { s with
    ports := Vector.ofFn fun p => s.ports[p].darkOrder s.config.ports[p] s.showClock
    pwm := Vector.replicate 12 0 }

/-- A port taking its configured type at an entry to ACTIVE (R164, R174). An OFF port has nothing but its state from the
rule: its other values, an absent last-sent frame among them, are those of a power-on start (log entry 31). -/
def Port.start (c : PortConfig) (now : Clock) : Port :=
  if c.type = .off then { Port.powerOn with state := .off }
  else { Port.powerOn with state := .idle, forced := true, frameDeadline := some (later now c.framePeriod) }

/-- A shift is in progress on the port, of a send or of the dark frame. -/
def Port.isShifting (x : Port) : Bool := decide (x.activity = .shifting ∨ x.activity = .darkShifting)

/-- A darkened port returned to work before ASLEEP (R174): IDLE, or SHIFTING with no echo check until the shift in
progress ends, the last-sent frame kept as the dark frame. The send count starts again at 0 (log entry 10). An OFF port becomes OFF,
its last-sent frame absent (log entry 31). -/
def Port.backToWork (x : Port) (c : PortConfig) (now : Clock) : Port :=
  if x.state = .dark then
    if c.type = .off then Port.start c now
    else if x.isShifting then
      { Port.start c now with
        state := .shifting, activity := .shifting, shift := x.shift, checkEcho := false, lastSent := x.lastSent }
    else { Port.start c now with lastSent := x.lastSent }
  else x

/-- Every darkened port returned to work (R174, R185). -/
def State.returnPorts (s : State) : State :=
  { s with ports := Vector.ofFn fun p => s.ports[p].backToWork s.config.ports[p] s.showClock }

/-- Every port has reported dark (R184). -/
def State.allDark (s : State) : Bool :=
  s.ports.toList.all fun x => decide (x.state = .dark) && x.reportedDark

/-! ## The meanings -/

/-- PORT_FRAME_EVENT (R164). -/
def execPortFrameEvent (port : Fin 4) (s : State) : Result := .next (portFrameEvent port s)

/-- SEND_FINISH (R167). -/
def execSendFinish (port : Fin 4) (s : State) : Result := .next (sendFinish port s)

/-- MARKER_SHIFTED (R169). -/
def execMarkerShifted (port : Fin 4) (s : State) : Result := .next (markerShifted port s)

/-- ECHO_ARRIVAL (R169). -/
def execEchoArrival (port : Fin 4) (echo : BitVec 32) (s : State) : Result := .next (echoArrival port echo s)

/-- ECHO_TIMEOUT (R169). -/
def execEchoTimeout (port : Fin 4) (s : State) : Result := .next (echoTimeout port s)

/-- PROBE_DEADLINE (R171). -/
def execProbeDeadline (port : Fin 4) (s : State) : Result := .next (probeDeadline port s)

/-- DARK_FRAME_SENT (R173). -/
def execDarkFrameSent (port : Fin 4) (s : State) : Result := .next (darkFrameSent port s)

end Sys2Proof.Machine
end

