-- ==== Sys2Proof/Machine/Drain.lean ====
section
/-! DEFINITION. Base transitions and layer fades, the drain, the dark phase and the dark order, and the entry to
ASLEEP (sections 8.4, 9.2, 11.5 and 11.6), with the commands TRANSITION_STEP, DRAIN_TIMER_EXPIRY and ENTER_ASLEEP. -/

namespace Sys2Proof.Machine

/-! ## Fades and transitions -/

/-- A layer given a fade of `t` steps from its present opacity; a fade in progress is replaced (R129, R130). -/
def Layer.beginFade (l : Layer) (t : Nat) (now : Clock) : Layer :=
  { l with state := .fading, fade := some ⟨l.opacity, t, 0, later now 10⟩ }

/-- The base moves to a target over `t` steps, at once when `t` is 0; a transition in progress is replaced
(R150 to R152). -/
def Base.moveTo (b : Base) (target : Look) (t : Nat) (now : Clock) : Base :=
  if t = 0 then { b with current := target, transition := none }
  else { b with transition := some ⟨b.current, target, t, 0, later now 10⟩ }

/-- The look at step `j` of `t`: the channels and the level step together, each truncated on its own (R151). -/
def glideLook (start target : Look) (j t : Nat) : Look :=
  ⟨glideColour start.colour target.colour j t, glide start.level target.level j t⟩

/-- One step of the base transition; the last step ends it (R151). -/
def Base.step (b : Base) (tr : Transition) : Base :=
  let j := tr.taken + 1
  { b with
    current := glideLook tr.start tr.target j tr.steps
    transition :=
      if j < tr.steps then some { tr with taken := j, deadline := later tr.deadline 10 } else none }

/-- The base is dark: level 0 and no transition in progress (R183). -/
def Base.dark (b : Base) : Bool := decide (b.current.level = 0) && b.transition.isNone

/-! ## The drain -/

/-- The look the dark phase moves the base to: the theme colour at level 0 (R183). -/
def Base.darkTarget (b : Base) : Look := ⟨b.theme.colour, 0⟩

/-- The layers of the dark phase: each given a fade of `t` steps; none is left when `t` is 0 (R129, R183). -/
def darkFades (t : Nat) (now : Clock) (ls : List Layer) : List Layer :=
  if t = 0 then [] else ls.map fun l => l.beginFade t now

/-- The drain end: the dark phase begins (R182, R183). -/
def State.beginDarkPhase (s : State) : State :=
  let t := s.config.darkFade.toNat
  { s with
    nodeState := .draining .dark
    drainDeadline := none
    stack := { s.stack with layers := darkFades t s.showClock s.stack.layers }
    base := s.base.moveTo s.base.darkTarget t s.showClock }

/-- The stack has settled: no RUNNING and no FADING layer (R182). -/
def LayerStack.settled (st : LayerStack) : Bool := st.layers.all fun l => decide (l.state = .held)

/-- The dark order is given once the base is dark and the stack empty (R184). -/
def State.darkCheck (s : State) : State :=
  if s.base.dark && s.stack.layers.isEmpty then { s.darkPorts with nodeState := .draining .ordered } else s

/-- After an event in DRAINING: the drain ends when the stack settles (R182), and the dark order follows when the
zone is dark (R184). -/
def State.drainCheck (s : State) : State :=
  match s.nodeState with
  | .draining .proper => if s.stack.settled then s.beginDarkPhase.darkCheck else s
  | .draining .dark => s.darkCheck
  | .draining .ordered | .starting _ | .halted | .active | .asleep | .waking => s

/-- TRANSITION_STEP: a step deadline of the base transition (R151); in the dark phase it may give the dark order. -/
def transitionStep (s : State) : State :=
  match s.base.transition with
  | some tr =>
    if s.running && reached s.showClock tr.deadline then { s with base := s.base.step tr }.drainCheck else s
  | none => s

/-- DRAIN_TIMER_EXPIRY: the drain ends, whatever the stack holds (R182). -/
def drainTimerExpiry (s : State) : State :=
  if decide (s.nodeState = .draining .proper) && due s.showClock s.drainDeadline then s.beginDarkPhase.darkCheck
  else s

/-! ## Entering ASLEEP -/

/-- An attempt is in flight (R13). -/
def BusPort.inAttempt (b : BusPort) : Bool :=
  match b.line with
  | .sending _ => true
  | .unwatched | .outside _ _ | .receiving | .stopped => false

/-- What the entry to ASLEEP waits for: every port dark after the dark order, no attempt in flight (R184). -/
def State.mayFallAsleep (s : State) : Bool :=
  decide (s.nodeState = .draining .ordered) && s.allDark && !s.bus.inAttempt

/-- The entry to ASLEEP: queues, lists and roster emptied, timers stopped, the rest held (R184). -/
def State.fallAsleep (s : State) : State :=
  { s with
    nodeState := .asleep
    drainDeadline := none
    bus := { s.bus with line := .unwatched, quietDeadline := none, expiryMark := false }
    out := { s.out with entries := [] }
    intake := Intake.empty
    roster := { s.roster with entries := Vector.replicate 31 none, presenceTimer := none }
    level := { s.level with slewDeadline := none, ramp := none }
    supply := { s.supply with settle := none, release := none }
    cues := []
    stack := { s.stack with layers := [] }
    base := { s.base with transition := none } }

/-- ENTER_ASLEEP (R184). -/
def enterAsleep (s : State) : State := if s.mayFallAsleep then s.fallAsleep else s

/-! ## The meanings -/

/-- TRANSITION_STEP (R151). -/
def execTransitionStep (s : State) : Result := .next (transitionStep s)

/-- DRAIN_TIMER_EXPIRY (R182). -/
def execDrainTimerExpiry (s : State) : Result := .next (drainTimerExpiry s)

/-- ENTER_ASLEEP (R184). -/
def execEnterAsleep (s : State) : Result := .next (enterAsleep s)

end Sys2Proof.Machine
end

