-- ==== Sys2Proof/Machine/Layers.lean ====
section
/-! DEFINITION. The layer stack: its order, insertion and eviction, the handoff, phase advance, the end of a run and
fade steps (sections 8.1 to 8.6), with the commands SHOW_TICK, LAYER_PHASE_ADVANCE and FADE_STEP. -/

namespace Sys2Proof.Machine

/-! ## Fields of a layer -/

/-- The unit U in ticks (R122). -/
def Shape.unit (sh : Shape) : Nat := if sh.long then 64 else 1

/-- The due point: floor(period × h / 256) (R132). -/
def Shape.duePoint (sh : Shape) : Nat := sh.period.toNat * sh.handoffPoint.toNat / 256

/-- The layer is advancing: RUNNING, or FADING with a phase below its period (R125). -/
def Layer.advancing (l : Layer) : Bool :=
  match l.state with
  | .running => true
  | .fading => decide (l.phase < l.shape.period.toNat)
  | .held => false

/-- The handoff falls due: RUNNING, not spent, phase at the due point (R132). -/
def Layer.handoffDue (l : Layer) : Bool :=
  decide (l.state = .running) && !l.spent && decide (l.phase = l.shape.duePoint)

/-- A layer sits above another: higher priority, or later in start order at the same one (R124). -/
def Layer.above (a b : Layer) : Bool :=
  decide (b.shape.priority.toNat < a.shape.priority.toNat) ||
    (decide (a.shape.priority = b.shape.priority) && decide (b.startOrder < a.startOrder))

/-- The layer of a key. -/
def findLayer (k : CueKey) (ls : List Layer) : Option Layer := ls.find? fun l => decide (l.key = k)

/-- The layers without the one of a key. -/
def removeLayer (k : CueKey) (ls : List Layer) : List Layer := ls.filter fun l => decide (l.key ≠ k)

/-- The layers with the one of a key changed. -/
def updateLayer (k : CueKey) (f : Layer → Layer) (ls : List Layer) : List Layer :=
  ls.map fun l => if l.key = k then f l else l

/-- A layer takes its place, bottom first: below the first layer that sits above it (R124). -/
def placeLayer (l : Layer) : List Layer → List Layer
  | [] => [l]
  | x :: xs => if x.above l then l :: x :: xs else x :: placeLayer l xs

/-- The state with these layers. -/
def State.setLayers (s : State) (ls : List Layer) : State := { s with stack := { s.stack with layers := ls } }

/-! ## The handoff -/

/-- The HANDOFF of a layer is requested if its route sends handoffs (R133). -/
def State.requestHandoff (s : State) (l : Layer) : State :=
  if (s.config.route l.route).sendsHandoff then s.request (Request.handoff l.key l.route) else s

/-- The handoff of a layer of the stack falls due: its flag is set and its HANDOFF requested (R133). -/
def State.giveHandoff (s : State) (l : Layer) : State :=
  (s.setLayers (updateLayer l.key (fun x => { x with spent := true }) s.stack.layers)).requestHandoff l

/-- The check of the due point of the layer of a key (R132). -/
def State.checkDue (s : State) (k : CueKey) : State :=
  match findLayer k s.stack.layers with
  | some l => if l.handoffDue then s.giveHandoff l else s
  | none => s

/-! ## Insertion -/

/-- The newcomer is placed and its due point checked (R135). -/
def State.placeNew (s : State) (l : Layer) : State :=
  (s.setLayers (placeLayer l s.stack.layers)).checkDue l.key

/-- The handoff of a layer that loses its place: requested if not yet spent (R136). -/
def State.losersHandoff (s : State) (l : Layer) : State := if l.spent then s else s.requestHandoff l

/-- A newcomer meets a full stack whose bottom layer is the candidate (R136). -/
def State.insertFull (s : State) (l candidate : Layer) : State :=
  if candidate.shape.priority.toNat < l.shape.priority.toNat then
    (((s.setLayers (removeLayer candidate.key s.stack.layers)).raise .layerEvicted).losersHandoff candidate).placeNew l
  else (s.raise .layerRefused).losersHandoff l

/-- A started layer is inserted into the stack (R135, R136). -/
def State.insertLayer (s : State) (l : Layer) : State :=
  match s.stack.layers with
  | candidate :: rest => if rest.length < 5 then s.placeNew l else s.insertFull l candidate
  | [] => s.placeNew l

/-! ## Phase and fades -/

/-- A tick steps the unit sub-count of an advancing layer; a sub-count that has reached the unit waits for its
advance (R125; log entry 4). -/
def Layer.tick (l : Layer) : Layer :=
  if l.advancing && decide (l.subCount < l.shape.unit) then { l with subCount := l.subCount + 1 } else l

/-- SHOW_TICK: the clock advances, wrapping modulo 2^32, and every advancing layer counts the tick (R122, R125). -/
def showTick (s : State) : State :=
  if s.running then
    { s.setLayers (s.stack.layers.map Layer.tick) with showClock := later s.showClock 1 }
  else s

/-- What the end of its run makes of a layer: a new run, removal, or its final look (R126). -/
def Layer.endRun (l : Layer) : Option Layer :=
  if l.shape.loop then some { l with phase := 0 }
  else match l.shape.endAction with
    | .drop => none
    | .keep => match l.state with
      | .running => some { l with state := .held }
      | .held | .fading => some l

/-- A layer one phase on, the end of its run applied (R125, R126). -/
def Layer.advance (l : Layer) : Option Layer :=
  let l := { l with subCount := 0, phase := l.phase + 1 }
  if l.phase = l.shape.period.toNat then l.endRun else some l

/-- The layer of a key is replaced by what it became, or removed. -/
def replaceLayer (k : CueKey) (r : Option Layer) (ls : List Layer) : List Layer :=
  match r with
  | some l => updateLayer k (fun _ => l) ls
  | none => removeLayer k ls

/-- LAYER_PHASE_ADVANCE: a unit is complete and the phase increases; then the run's end, the handoff, and in
DRAINING the drain (R125, R126, R133, R182). -/
def layerPhaseAdvance (k : CueKey) (s : State) : State :=
  match findLayer k s.stack.layers with
  | some l =>
    if s.running && l.advancing && decide (l.shape.unit ≤ l.subCount) then
      ((s.setLayers (replaceLayer k l.advance s.stack.layers)).checkDue k).drainCheck
    else s
  | none => s

/-- A layer after a step of its fade; the last step removes it (R129). -/
def Layer.fadeOnce (l : Layer) (f : Fade) : Option Layer :=
  let j := f.taken + 1
  if j < f.steps then
    some { l with
      opacity := byteOf (f.start.toNat - f.start.toNat * j / f.steps)
      fade := some { f with taken := j, deadline := later f.deadline 10 } }
  else none

/-- FADE_STEP: a step deadline of a FADING layer (R129); in DRAINING it may end the drain or give the dark order. -/
def fadeStep (k : CueKey) (s : State) : State :=
  match findLayer k s.stack.layers with
  | some l =>
    match l.fade with
    | some f =>
      if s.running && decide (l.state = .fading) && reached s.showClock f.deadline then
        (s.setLayers (replaceLayer k (l.fadeOnce f) s.stack.layers)).drainCheck
      else s
    | none => s
  | none => s

/-! ## The meanings -/

/-- SHOW_TICK (R122). -/
def execShowTick (s : State) : Result := .next (showTick s)

/-- LAYER_PHASE_ADVANCE (R125). -/
def execLayerPhaseAdvance (key : CueKey) (s : State) : Result := .next (layerPhaseAdvance key s)

/-- FADE_STEP (R129). -/
def execFadeStep (key : CueKey) (s : State) : Result := .next (fadeStep key s)

end Sys2Proof.Machine
end

