-- ==== Sys2Proof/Machine/Cues.lean ====
section
/-! DEFINITION. The cue list: arming, the join test, DELAYING and the start, the handling of CALL, HANDOFF and
CANCEL, absence signals and the fallback (chapter 7), with the commands CALL_HANDLED, CANCEL_HANDLED,
HANDOFF_HANDLED, FALLBACK_EXPIRY and DELAY_EXPIRY. -/

namespace Sys2Proof.Machine

/-! ## The list -/

/-- The record of a key. -/
def findCue (k : CueKey) (cs : List CueRecord) : Option CueRecord := cs.find? fun c => decide (c.key = k)

/-- The records without the one of a key. -/
def removeCue (k : CueKey) (cs : List CueRecord) : List CueRecord := cs.filter fun c => decide (c.key ≠ k)

/-- The records with the one of a key changed in place. -/
def updateCue (k : CueKey) (f : CueRecord → CueRecord) (cs : List CueRecord) : List CueRecord :=
  cs.map fun c => if c.key = k then f c else c

/-- The join test (R99). -/
def joinMet (r : RouteEntry) (arrived : List ZoneNo) : Bool :=
  match r.join with
  | .first => !arrived.isEmpty
  | .both => r.predecessors.all fun z => arrived.contains z

/-- A zone added to an arrived set at most once (R99). -/
def addArrived (z : ZoneNo) (arrived : List ZoneNo) : List ZoneNo :=
  if arrived.contains z then arrived else arrived ++ [z]

/-! ## Starting -/

/-- The layer a cue starts as (R101). -/
def CueRecord.layer (c : CueRecord) (reverse : Bool) (order : Nat) : Layer where
  key := c.key
  route := c.route
  reverse := reverse
  shape := c.shape
  phase := 0
  subCount := 0
  opacity := 255
  state := .running
  fade := none
  spent := false
  startOrder := order

/-- A cue starts: its record leaves the list and its layer is handed to the stack (R101). -/
def State.startCue (s : State) (c : CueRecord) : State :=
  let l := c.layer (s.config.route c.route).reverse s.stack.nextStart
  { s with
    cues := removeCue c.key s.cues
    stack := { s.stack with nextStart := s.stack.nextStart + 1 } }.insertLayer l

/-- A record entering DELAYING: no fallback, and a delay deadline if it has a start delay (R100). -/
def CueRecord.delayed (c : CueRecord) (now : Clock) : CueRecord :=
  { c with
    state := .delaying
    fallback := none
    delay := if c.startDelay = 0 then none else some (later now (10 * c.startDelay.toNat)) }

/-- A record enters DELAYING; with start delay 0 its cue starts at that same event (R100, R101). -/
def State.enterDelaying (s : State) (c : CueRecord) : State :=
  if c.startDelay = 0 then s.startCue (c.delayed s.showClock)
  else { s with cues := updateCue c.key (fun x => x.delayed s.showClock) s.cues }

/-! ## Arming -/

/-- A record as it is armed on its route: AWAIT_HANDOFF, the absent predecessors counted, and the fallback deadline
if the route has one (R107). -/
def State.armed (s : State) (c : CueRecord) : CueRecord :=
  let r := s.config.route c.route
  { c with
    state := .awaitHandoff
    arrived := r.predecessors.filter s.isAbsent
    fallback :=
      if r.predecessors.isEmpty || decide (r.fallback = 0) then none
      else some (later s.showClock (10 * r.fallback.toNat))
    delay := none }

/-- A record that the list holds is armed by its route entry: a head enters DELAYING, and so does a follower whose
join test is met (R107). -/
def State.arm (s : State) (c : CueRecord) : State :=
  let r := s.config.route c.route
  let a := s.armed c
  let s' := { s with cues := updateCue c.key (fun _ => a) s.cues }
  if r.predecessors.isEmpty || joinMet r a.arrived then s'.enterDelaying a else s'

/-- A zone is added to the arrived set of a waiting record, and the join test applied (R99, R109, R110). -/
def State.arrive (s : State) (c : CueRecord) (z : ZoneNo) : State :=
  let a := { c with arrived := addArrived z c.arrived }
  let s' := { s with cues := updateCue c.key (fun _ => a) s.cues }
  if joinMet (s.config.route c.route) a.arrived then s'.enterDelaying a else s'

/-! ## CALL -/

/-- The record of a CALL (R107); its state and deadlines are set at arming. -/
def newCue (key : CueKey) (route : BitVec 3) (shape : Shape) (startDelay : Byte) : CueRecord where
  key := key
  route := route
  shape := shape
  startDelay := startDelay
  state := .awaitHandoff
  arrived := []
  fallback := none
  delay := none

/-- A layer restyled by a CALL: route, reverse, handoff point, start order and spent flag are kept (R104). -/
def Layer.restyle (l : Layer) (sh : Shape) : Layer :=
  { l with
    shape := { sh with handoffPoint := l.shape.handoffPoint }
    phase := 0
    subCount := 0
    state := .running }

/-- A CALL restyles the layer of its key: it moves to its place, and its due point is checked (R104, R124, R132). -/
def State.restyle (s : State) (l : Layer) (sh : Shape) : State :=
  (s.setLayers (placeLayer (l.restyle sh) (removeLayer l.key s.stack.layers))).checkDue l.key

/-- A CALL whose key a record holds updates it in place, or re-arms it on another route (R105, R106). -/
def State.recall (s : State) (c : CueRecord) (route : BitVec 3) (sh : Shape) (startDelay : Byte) : State :=
  if c.route = route then
    { s with cues := updateCue c.key (fun x => { x with shape := sh, startDelay := startDelay }) s.cues }
  else s.arm (newCue c.key route sh startDelay)

/-- A new record joins the tail and is armed (R107). -/
def State.armNew (s : State) (c : CueRecord) : State := { s with cues := s.cues ++ [c] }.arm c

/-- A CALL whose key is held nowhere: armed, or settled by the intake policy when the list is full (R107, R108). -/
def State.admitCall (s : State) (c : CueRecord) : State :=
  if s.cues.length < 8 then s.armNew c
  else match s.config.policy with
    | .replaceOldest => ({ s with cues := s.cues.tail }.raise .cueDisplaced).armNew c
    | .refuseNew => s.raise .cueRefused

/-- A CALL in ACTIVE, from step 4 of R102 on. -/
def State.callCue (s : State) (key : CueKey) (route : BitVec 3) (sh : Shape) (startDelay : Byte) : State :=
  match findCue key s.cues with
  | some c => s.recall c route sh startDelay
  | none => s.admitCall (newCue key route sh startDelay)

/-- The settling of a CALL at its completion (R102, R103). -/
def State.settleCall (s : State) (key : CueKey) (route : BitVec 3) (sh : Shape) (startDelay : Byte) : State :=
  if s.isDraining then s
  else match findLayer key s.stack.layers with
    | some l =>
      if l.state = .fading then
        (s.setLayers (removeLayer key s.stack.layers)).callCue key route sh startDelay
      else s.restyle l sh
    | none => s.callCue key route sh startDelay

/-- CALL_HANDLED (R102). -/
def callHandled (s : State) : State :=
  match s.handled with
  | some ⟨origin, .call tag route sh startDelay⟩ =>
    if s.running then s.complete fun s => s.settleCall ⟨origin, tag⟩ route sh startDelay else s
  | _ => s

/-! ## HANDOFF and absence -/

/-- The checks of a HANDOFF from a sending zone (R109). -/
def State.settleHandoff (s : State) (sender : ZoneNo) (key : CueKey) (route : BitVec 3) : State :=
  if (findLayer key s.stack.layers).isSome then s
  else match findCue key s.cues with
    | some c => if c.route = route ∧ c.state = .awaitHandoff then s.arrive c sender else s
    | none => s

/-- HANDOFF_HANDLED (R109). -/
def handoffHandled (s : State) : State :=
  match s.handled with
  | some ⟨sender, .handoff origin tag route⟩ =>
    if s.running then s.complete fun s => s.settleHandoff sender ⟨origin, tag⟩ route else s
  | _ => s

/-- An absence signal reaches the record of one key (R110). -/
def State.signalCue (z : ZoneNo) (s : State) (k : CueKey) : State :=
  match findCue k s.cues with
  | some c =>
    if c.state = .awaitHandoff ∧ z ∈ (s.config.route c.route).predecessors then s.arrive c z else s
  | none => s

/-- An absence signal reaches every waiting record, oldest first (R110). -/
def State.signalAbsence (s : State) (z : ZoneNo) : State :=
  (s.cues.map CueRecord.key).foldl (State.signalCue z) s

/-- FALLBACK_EXPIRY (R111). -/
def fallbackExpiry (k : CueKey) (s : State) : State :=
  match findCue k s.cues with
  | some c =>
    if s.running && decide (c.state = .awaitHandoff) && due s.showClock c.fallback then s.enterDelaying c else s
  | none => s

/-- DELAY_EXPIRY (R101). -/
def delayExpiry (k : CueKey) (s : State) : State :=
  match findCue k s.cues with
  | some c =>
    if s.running && decide (c.state = .delaying) && due s.showClock c.delay then s.startCue c else s
  | none => s

/-! ## CANCEL -/

/-- The CANCEL's cue origin and tag select the key (R114). -/
def cancelMatches (origin : ZoneNo) (tag : Byte) (k : CueKey) : Bool :=
  (decide (k.origin = origin) || decide (origin = 31)) && (decide (k.tag = tag) || decide (tag = 0))

/-- What a CANCEL makes of a matched layer: removal, or a fade with the handoff spent (R116). -/
def Layer.cancel (l : Layer) (mode : CancelMode) (t : Nat) (now : Clock) : Option Layer :=
  match mode with
  | .stop => none
  | .fadeOut => if t = 0 then none else some { l.beginFade t now with spent := true }

/-- The keys a CANCEL matches in the list and the stack (R114). -/
def State.matchedKeys (s : State) (origin : ZoneNo) (tag : Byte) : List CueKey :=
  (s.cues.map CueRecord.key ++ s.stack.layers.map Layer.key).filter (cancelMatches origin tag)

/-- The effect of a CANCEL on records, layers and queued HANDOFFs (R114 to R117). -/
def State.cancel (s : State) (origin : ZoneNo) (tag : Byte) (mode : CancelMode) (fadeTime : Byte) : State :=
  { s with
    cues := s.cues.filter fun c => !cancelMatches origin tag c.key
    stack := { s.stack with
      layers := s.stack.layers.filterMap fun l =>
        if cancelMatches origin tag l.key then l.cancel mode fadeTime.toNat s.showClock else some l }
    out := { s.out with entries := withdrawKeys (s.matchedKeys origin tag) s.out.entries } }

/-- CANCEL_HANDLED (R114); in DRAINING it may end the drain or give the dark order (R182, R184). -/
def cancelHandled (s : State) : State :=
  match s.handled with
  | some ⟨_, .cancel origin tag mode fadeTime⟩ =>
    if s.running then s.complete fun s => (s.cancel origin tag mode fadeTime).drainCheck else s
  | _ => s

/-! ## The meanings -/

/-- CALL_HANDLED (R102). -/
def execCallHandled (s : State) : Result := .next (callHandled s)

/-- CANCEL_HANDLED (R114). -/
def execCancelHandled (s : State) : Result := .next (cancelHandled s)

/-- HANDOFF_HANDLED (R109). -/
def execHandoffHandled (s : State) : Result := .next (handoffHandled s)

/-- FALLBACK_EXPIRY (R111). -/
def execFallbackExpiry (key : CueKey) (s : State) : Result := .next (fallbackExpiry key s)

/-- DELAY_EXPIRY (R101). -/
def execDelayExpiry (key : CueKey) (s : State) : Result := .next (delayExpiry key s)

end Sys2Proof.Machine
end

