-- ==== Sys2Proof/Machine/Roster.lean ====
section
/-! DEFINITION. The peer roster (sections 5.1 to 5.3): the refresh, deliveries, the newcomer rule, the end of a
PEER-mode quiet period, absence and the presence timer, with the commands PRESENCE_DELIVERED, CAP_DELIVERED,
ABSENCE_EXPIRY and PRESENCE_TIMER_EXPIRY. -/

namespace Sys2Proof.Machine

/-- An entry heard from now: the stamp and the absence deadline 3P later (R69, R72). -/
def Peer.heard (p : Peer) (now : Clock) (absenceTime : Nat) : Peer :=
  { p with lastHeard := now, absence := later now absenceTime }

/-- The refresh of a taken frame's origin, if its entry is PRESENT (R40). -/
def State.refresh (s : State) (origin : ZoneNo) : State :=
  match zoneIndex origin with
  | some i => s.setPeer i (s.roster.entries[i].map fun p => p.heard s.showClock s.absenceTime)
  | none => s

/-- The outgoing queue holds a PRESENCE, in flight or not (R76). -/
def State.presenceQueued (s : State) : Bool := s.out.entries.any fun e => decide (e.kind = .presence)

/-- The node's own PRESENCE was completed less than P/4 ago (R76). -/
def State.presenceRecent (s : State) : Bool :=
  s.roster.completionStamp.any fun c => decide (age s.showClock c * 4 < presenceInterval s.config)

/-- The newcomer rule (R76). -/
def State.answerNewcomer (s : State) : State :=
  if s.presenceQueued || s.presenceRecent then s else s.request (.report .presence)

/-- The move from LISTEN_ONLY to SPEAKING: the quiet period is over and a PRESENCE is queued (R16). -/
def State.toSpeaking (s : State) : State :=
  { s with bus := { s.bus with standing := .speaking, quietDeadline := none, expiryMark := false } }.request
    (.report .presence)

/-- A PRESENCE of this kind, just accepted, ends the quiet period of PEER mode (R16). -/
def State.endsQuiet (s : State) (kind : PeerKind) : Bool :=
  decide (s.bus.standing = .listenOnly) && s.bus.expiryMark && decide (kind = .lighting)

/-- The entry that a delivered frame makes or sets (R70, R71). -/
def State.heardPeer (s : State) (kind : PeerKind) (cap : Byte) : Peer :=
  Peer.heard ⟨kind, cap, 0, 0⟩ s.showClock s.absenceTime

/-- A PRESENCE delivered to the roster (R70), with the newcomer rule (R76) and the PEER recovery (R16). -/
def State.deliverPresence (s : State) (i : Fin 31) (kind : PeerKind) (cap : Byte) : State :=
  let newcomer := s.roster.entries[i].isNone
  let s := (s.setPeer i (some (s.heardPeer kind cap))).formTarget
  let s := if newcomer then s.answerNewcomer else s
  if s.endsQuiet kind then s.toSpeaking else s

/-- The kind a delivered CAP leaves in its entry: held, or LIGHTING for an ABSENT one (R71). -/
def capKind (e : Option Peer) : PeerKind := (e.map Peer.kind).getD .lighting

/-- A CAP delivered to the roster (R71). -/
def State.deliverCap (s : State) (i : Fin 31) (cap : Byte) : State :=
  (s.setPeer i (some (s.heardPeer (capKind s.roster.entries[i]) cap))).formTarget

/-- The accepted roster frames still to be delivered become these. -/
def State.withInbox (s : State) (fs : List RosterFrame) : State :=
  { s with intake := { s.intake with inbox := fs } }

/-- PRESENCE_DELIVERED: the first accepted roster frame, a PRESENCE, reaches the roster (R47, R70; log entry 8). -/
def presenceDelivered (s : State) : State :=
  match s.intake.inbox with
  | .presence i kind cap :: rest => if s.running then (s.withInbox rest).deliverPresence i kind cap else s
  | _ => s

/-- CAP_DELIVERED: the first accepted roster frame, a CAP, reaches the roster (R47, R71; log entry 8). -/
def capDelivered (s : State) : State :=
  match s.intake.inbox with
  | .cap i cap :: rest => if s.running then (s.withInbox rest).deliverCap i cap else s
  | _ => s

/-- ABSENCE_EXPIRY: a PRESENT entry reaches its absence deadline (R72). -/
def absenceExpiry (i : Fin 31) (s : State) : State :=
  match s.roster.entries[i] with
  | some p =>
    if s.running && reached s.showClock p.absence then
      ((s.setPeer i none).signalAbsence (BitVec.ofFin (i.castLE (by decide)))).formTarget
    else s
  | none => s

/-- PRESENCE_TIMER_EXPIRY: a PRESENCE is requested and the timer runs on (R75). -/
def presenceTimerExpiry (s : State) : State :=
  match s.roster.presenceTimer with
  | some d =>
    if s.running && reached s.showClock d then
      { s with roster := { s.roster with presenceTimer := some (later d (presenceInterval s.config)) } }.request
        (.report .presence)
    else s
  | none => s

/-! ## The meanings -/

/-- PRESENCE_DELIVERED (R70). -/
def execPresenceDelivered (s : State) : Result := .next (presenceDelivered s)

/-- CAP_DELIVERED (R71). -/
def execCapDelivered (s : State) : Result := .next (capDelivered s)

/-- ABSENCE_EXPIRY (R72). -/
def execAbsenceExpiry (zone : Fin 31) (s : State) : Result := .next (absenceExpiry zone s)

/-- PRESENCE_TIMER_EXPIRY (R75). -/
def execPresenceTimerExpiry (s : State) : Result := .next (presenceTimerExpiry s)

end Sys2Proof.Machine
end

