-- ==== Sys2Proof/Machine/Bus.lean ====
section
/-! DEFINITION. The bus port (chapter 1): attempts and their outcomes, the standing, the vote and its runs, and the
edges on the line. Its commands are ATTEMPT_START, ATTEMPT_SENT, ATTEMPT_VOIDED, READBACK_FAULT, CONTENTION_LOST,
LINE_STUCK_CONDITION, SILENT_RECOVERY, QUIET_PERIOD_EXPIRY, FRAME_VOIDED, FRAME_DISCARDED, FRAME_CUT_SHORT,
WAKING_EDGE, START_BIT and LINE_NOISE. -/

namespace Sys2Proof.Machine

/-! ## The line -/

/-- The bus port watches the line so. -/
def State.watch (s : State) (l : LineWatch) : State := { s with bus := { s.bus with line := l } }

/-- No frame is on the line. -/
def BusPort.isOutside (b : BusPort) : Bool :=
  match b.line with
  | .outside _ _ => true
  | .unwatched | .receiving | .sending _ | .stopped => false

/-- The frame of the attempt in flight. -/
def BusPort.frame? (b : BusPort) : Option Frame :=
  match b.line with
  | .sending f => some f
  | .unwatched | .outside _ _ | .receiving | .stopped => none

/-- Where the idle count runs from in this gap; none where the gap is within a frame. A frame that is still followed
past a pulse that reaches the cut time is left for the idle line (R3, R4; log entry 29). -/
def BusPort.idleFrom (b : BusPort) (g : Gap) : Option IdleFrom :=
  match b.line with
  | .outside f _ => some f
  | .receiving | .stopped => if cutTime ≤ g.width then some .bitEnd else none
  | .unwatched | .sending _ => none

/-- The line is idle at the end of the gap (R4). -/
def BusPort.idleAt (b : BusPort) (g : Gap) : Bool := (b.idleFrom g).any fun f => lineIdle (idleCount g f)

/-- Another station's frame is being followed, in a standing that receives (R12, R18). -/
def State.receives (s : State) : Bool :=
  s.running && decide (s.bus.standing ≠ .silent) && decide (s.bus.line = .receiving)

/-! ## Attempts -/

/-- The bus port may start an attempt after this gap (R21). -/
def State.maySend (s : State) (g : Gap) : Bool :=
  s.running && decide (s.bus.standing = .speaking) && s.bus.idleAt g

/-- ATTEMPT_START: the head's frame is fixed and its start bit driven on the idle line (R4, R21, R62). -/
def attemptStart (gap : Gap) (s : State) : State :=
  match s.out.entries with
  | head :: rest =>
    if s.maySend gap then
      { s with out := { s.out with entries := s.launched head :: rest } }.watch (.sending (s.frameOf head))
    else s
  | [] => s

/-- A SENT PRESENCE clears the group-new flags that are still marked, and is stamped (R63, R76, R188). -/
def State.presenceSent (s : State) (e : SendEntry) : State :=
  if e.kind = .presence then
    { s with
      status := { s.status with groupNew := s.status.groupNew.without e.clearMarks }
      roster := { s.roster with completionStamp := some s.showClock } }
  else s

/-- ATTEMPT_SENT: the own void slot read 1 (R13, R63). -/
def attemptSent (s : State) : State :=
  if s.running && s.bus.inAttempt then
    let s' := match s.inFlightEntry with
      | some e => (s.presenceSent e).settle afterSent
      | none => s
    { s' with bus := { s'.bus with voidRun := 0, line := .outside .bitEnd 0 } }
  else s

/-- The quiet period of 200 ms starts, its mark clear (R16). -/
def BusPort.quiet (b : BusPort) (now : Clock) : BusPort :=
  { b with standing := .listenOnly, quietDeadline := some (later now 200), expiryMark := false }

/-- A void run of 8 moves the node to LISTEN_ONLY (R15). -/
def State.enterListenOnly (s : State) : State :=
  let s := { s with bus := { s.bus with voidRun := 0 } }.raise .listenOnlyEntered
  { s with bus := s.bus.quiet s.showClock }.discardQueue

/-- The void run counts a VOIDED outcome (R15). -/
def State.countVoid (s : State) : State :=
  if s.bus.voidRun + 1 < 8 then { s with bus := { s.bus with voidRun := s.bus.voidRun + 1 } }
  else s.enterListenOnly

/-- The attempt ends VOIDED and the void run counts it (R13, R64). -/
def State.attemptVoided (s : State) : State := (s.settleVoided.watch (.outside .bitEnd 0)).countVoid

/-- ATTEMPT_VOIDED: the own void slot read 0 (R13, R64). -/
def attemptVoided (s : State) : State := if s.running && s.bus.inAttempt then s.attemptVoided else s

/-- READBACK_FAULT: a bit read back is not the bit sent, or is bad; BIT_FAULT, the attempt is VOIDED, and the rest of
the frame goes by (R8, R11). -/
def readbackFault (position : Nat) (bit : LineBit) (s : State) : State :=
  match s.bus.frame? with
  | some f => if s.running && readbackFaulty f position bit then (s.raise .bitFault).attemptVoided.watch .stopped else s
  | none => s

/-- CONTENTION_LOST: a header bit sent as 1 was sampled as 0; the port goes on as a receiver (R7, R65). -/
def contentionLost (headerBit : Fin 12) (s : State) : State :=
  match s.bus.frame? with
  | some f =>
    if s.running && f.header.getMsbD headerBit then (s.settle afterLost).watch .receiving else s
  | none => s

/-! ## The standing -/

/-- The move to SILENT (R17). -/
def BusPort.silence (b : BusPort) : BusPort :=
  { b with
    standing := .silent
    quietDeadline := none
    expiryMark := false
    recessiveCount := 0
    line := .outside .rise 0 }

/-- LINE_STUCK_CONDITION (R17). -/
def lineStuckCondition (dominant : Nanos) (s : State) : State :=
  if s.running && lineStuck dominant then
    let s := if s.bus.inAttempt then s.settleVoided else s
    ({ s with bus := s.bus.silence }.raise .lineStuck).discardQueue
  else s

/-- SILENT_RECOVERY (R18). -/
def silentRecovery (recessive : Nanos) (s : State) : State :=
  if s.running && decide (s.bus.standing = .silent) && lineHealthy recessive then
    { s with bus := { s.bus.quiet s.showClock with recessiveCount := recessive, line := .outside .rise recessive } }
  else s

/-- QUIET_PERIOD_EXPIRY (R16). -/
def quietPeriodExpiry (s : State) : State :=
  if s.running && decide (s.bus.standing = .listenOnly) && due s.showClock s.bus.quietDeadline then
    match s.config.recovery with
    | .auto => s.toSpeaking
    | .peer => { s with bus := { s.bus with quietDeadline := none, expiryMark := true } }
  else s

/-! ## The vote -/

/-- A frame with a fault, counted while the vote is not muted (R19). -/
def State.countFault (s : State) : State :=
  if s.bus.faultRun + 1 < 16 then { s with bus := { s.bus with faultRun := s.bus.faultRun + 1 } }
  else { s with bus := { s.bus with muted := true, faultRun := 0, cleanRun := 0 } }.raise .voteMuted

/-- A clean frame, counted while the vote is muted (R20). -/
def BusPort.countClean (b : BusPort) : BusPort :=
  if b.cleanRun + 1 < 16 then { b with cleanRun := b.cleanRun + 1 } else { b with muted := false, cleanRun := 0 }

/-- The fault and clean runs count a received frame (R19, R20). -/
def State.countFrame (s : State) (faulty : Bool) : State :=
  match s.bus.muted, faulty with
  | false, true => s.countFault
  | false, false => { s with bus := { s.bus with faultRun := 0 } }
  | true, true => { s with bus := { s.bus with cleanRun := 0 } }
  | true, false => { s with bus := s.bus.countClean }

/-- A received frame ends at its void slot, or at the point that stands for it: the node's vote, the runs, and the
idle count from here (R4, R10, R11, R12). -/
def State.endFrame (s : State) (vote : Vote) (faulty : Bool) : State :=
  let v := if faulty && !s.bus.muted then vote else .quiet
  { s with bus := { s.bus with lastVote := v, line := .outside .bitEnd 0 } }.countFrame faulty

/-- The rest of a frame ends that a stopped sender went on following: not voted on, not taken, not counted (R8, R11; log
entry 30). -/
def State.endRest (s : State) : State :=
  if s.running && decide (s.bus.standing ≠ .silent) && decide (s.bus.line = .stopped) then s.watch (.outside .bitEnd 0)
  else s

/-- FRAME_VOIDED: the void slot of a received frame read 0 (R10, R12). -/
def frameVoided (bits : List LineBit) (s : State) : State :=
  if rxComplete bits then
    if s.receives then s.endFrame .stretched (rxFaulty bits) else s.endRest
  else s

/-- FRAME_DISCARDED: a muted receiver that found a fault discards a frame whose void slot read 1 (R10). -/
def frameDiscarded (bits : List LineBit) (s : State) : State :=
  if rxComplete bits && rxFaulty bits then
    if s.receives then if s.bus.muted then s.endFrame .quiet true else s
    else s.endRest
  else s

/-- FRAME_CUT_SHORT: a void pulse, or an uncounted fragment (R11). -/
def frameCutShort (bits : List LineBit) (s : State) : State :=
  if rxCut bits then
    if s.receives then if rxFragment bits then s.watch (.outside .bitEnd 0) else s.endFrame .voidPulse true
    else s.endRest
  else s

/-! ## Edges -/

/-- WAKING_EDGE: a falling edge in ASLEEP (R186). -/
def wakingEdge (s : State) : State := if s.nodeState = .asleep then { s with nodeState := .waking } else s

/-- A falling edge on the line of a SILENT node sets the measure of R18 back to zero. -/
def State.silentEdge (s : State) : State :=
  { s with bus := { s.bus with recessiveCount := 0, line := .outside .rise 0 } }

/-- START_BIT: another station's falling edge on the idle line begins a frame (R4); it wakes an ASLEEP node too
(R22, R186; log entry 13). -/
def startBit (gap : Gap) (s : State) : State :=
  if s.running && gapMayBeIdle gap then
    if s.bus.standing = .silent then s.silentEdge
    else if s.bus.idleAt gap then s.watch .receiving else s
  else wakingEdge s

/-- LINE_NOISE: a falling edge outside a frame on a line that is not idle restarts the idle count (R4). -/
def lineNoise (gap : Gap) (s : State) : State :=
  if s.running && gapMayBeNoise gap then
    if s.bus.standing = .silent then s.silentEdge
    else if s.bus.isOutside && !s.bus.idleAt gap then s.watch (.outside .rise 0) else s
  else wakingEdge s

/-! ## The meanings -/

/-- ATTEMPT_START (R21). -/
def execAttemptStart (gap : Gap) (s : State) : Result := .next (attemptStart gap s)

/-- ATTEMPT_SENT (R63). -/
def execAttemptSent (s : State) : Result := .next (attemptSent s)

/-- ATTEMPT_VOIDED (R64). -/
def execAttemptVoided (s : State) : Result := .next (attemptVoided s)

/-- READBACK_FAULT (R8). -/
def execReadbackFault (position : Nat) (bit : LineBit) (s : State) : Result := .next (readbackFault position bit s)

/-- CONTENTION_LOST (R7). -/
def execContentionLost (headerBit : Fin 12) (s : State) : Result := .next (contentionLost headerBit s)

/-- LINE_STUCK_CONDITION (R17). -/
def execLineStuckCondition (dominant : Nanos) (s : State) : Result := .next (lineStuckCondition dominant s)

/-- SILENT_RECOVERY (R18). -/
def execSilentRecovery (recessive : Nanos) (s : State) : Result := .next (silentRecovery recessive s)

/-- QUIET_PERIOD_EXPIRY (R16). -/
def execQuietPeriodExpiry (s : State) : Result := .next (quietPeriodExpiry s)

/-- FRAME_VOIDED (R10). -/
def execFrameVoided (bits : List LineBit) (s : State) : Result := .next (frameVoided bits s)

/-- FRAME_DISCARDED (R10). -/
def execFrameDiscarded (bits : List LineBit) (s : State) : Result := .next (frameDiscarded bits s)

/-- FRAME_CUT_SHORT (R11). -/
def execFrameCutShort (bits : List LineBit) (s : State) : Result := .next (frameCutShort bits s)

/-- WAKING_EDGE (R186). -/
def execWakingEdge (s : State) : Result := .next (wakingEdge s)

/-- START_BIT (R4). -/
def execStartBit (gap : Gap) (s : State) : Result := .next (startBit gap s)

/-- LINE_NOISE (R4). -/
def execLineNoise (gap : Gap) (s : State) : Result := .next (lineNoise gap s)

end Sys2Proof.Machine
end

