-- ==== Sys2Proof/Machine/Acceptance.lean ====
section
/-! DEFINITION. Acceptance (chapter 3): the twin-zone check, the refresh, the six checks and delivery, with the
command FRAME_TAKEN. -/

namespace Sys2Proof.Machine

/-- What the checks before delivery make of a taken frame (R41). -/
inductive Verdict where
  /-- Refused without notice, or ignored. -/
  | silently
  /-- Refused with BAD_BODY. -/
  | badBody
  | delivered (kind : FrameKind)
deriving DecidableEq, Repr

/-- The addressing check (R46). -/
def addressed (c : NodeConfig) (kind : FrameKind) (origin : ZoneNo) (body : List Byte) : Bool :=
  match kind with
  | .call => (c.route (field (bodyByte body 1) 5 3)).member
  | .handoff =>
    let r := c.route (field (bodyByte body 2) 0 3)
    r.member && r.predecessors.contains origin
  | .query | .clear =>
    let target : ZoneNo := field (bodyByte body 0) 0 5
    decide (target = c.zone) || decide (target = 31)
  | .wake | .cancel | .theme | .dim | .sleep | .status | .presence | .cap => true

/-- The checks in their order: node state, kind, length, field legality, addressing (R41 to R46). -/
def judge (c : NodeConfig) (draining : Bool) (header : BitVec 12) (body : List Byte) : Verdict :=
  let kind := FrameKind.ofValue (headerKind header)
  let origin := headerOrigin header
  if draining && decide (kind = some .call) then .silently
  else match kind with
    | none => .silently
    | some k =>
      if origin = 31 then .silently
      else if body.length ≠ k.bodyLength then .badBody
      else if !fieldsLegal k body then .badBody
      else if addressed c k origin body then .delivered k
      else .silently

/-- The roster frame that a PRESENCE or CAP brings; none for the own zone's (R47). -/
def rosterFrame (c : NodeConfig) (k : FrameKind) (origin : ZoneNo) (body : List Byte) : Option RosterFrame :=
  if origin = c.zone then none
  else match k with
    | .presence => (zoneIndex origin).map fun i => .presence i (presenceKind body) (bodyByte body 1)
    | .cap => (zoneIndex origin).map fun i => .cap i (bodyByte body 0)
    | .wake | .call | .cancel | .handoff | .theme | .dim | .sleep | .query | .status | .clear => none

/-- Delivery: to the roster (log entry 8) or to the intake FIFO (R47, R48). -/
def State.deliverFrame (s : State) (k : FrameKind) (origin : ZoneNo) (body : List Byte) : State :=
  match bodyOrder k body with
  | some o => s.deliver ⟨origin, o⟩
  | none =>
    match rosterFrame s.config k origin body with
    | some f => s.withInbox (s.intake.inbox ++ [f])
    | none => s

/-- The checks and what follows from them (R41). -/
def State.accept (s : State) (header : BitVec 12) (body : List Byte) : State :=
  match judge s.config s.isDraining header body with
  | .silently => s
  | .badBody => s.raise .badBody
  | .delivered k => s.deliverFrame k (headerOrigin header) body

/-- A taken frame is handed on: the twin-zone check, the refresh, the acceptance checks (R12, R14, R40, R41). -/
def State.handOn (s : State) (header : BitVec 12) (body : List Byte) : State :=
  ((s.raiseIf (decide (headerOrigin header = s.config.zone)) .twinZone).refresh (headerOrigin header)).accept header body

/-- FRAME_TAKEN: the void slot of a received frame read 1 and no fault was found in it (R10, R12). -/
def frameTaken (bits : List LineBit) (s : State) : State :=
  if rxComplete bits && !rxFaulty bits then
    if s.receives then (s.handOn (rxHeader bits) (rxBody bits)).endFrame .quiet false else s.endRest
  else s

/-- FRAME_TAKEN (R12). -/
def execFrameTaken (bits : List LineBit) (s : State) : Result := .next (frameTaken bits s)

end Sys2Proof.Machine
end

