-- ==== Sys2Proof/Machine/Handling.lean ====
section
/-! DEFINITION. The handlings of the orders that are no cue and no dimmer order: THEME (R150), SLEEP (R181), WAKE
(R185), QUERY (R189), CLEAR (R190) and STATUS (R36). -/

namespace Sys2Proof.Machine

/-- The base is held dark or on its way there: past the drain end, a THEME leaves the transition alone (R150, R183;
past the dark order by log entry 16). -/
def State.pastDrainEnd (s : State) : Bool :=
  match s.nodeState with
  | .draining .dark | .draining .ordered => true
  | .draining .proper | .starting _ | .halted | .active | .asleep | .waking => false

/-- A THEME's effect: the theme is set, and the base moves toward it unless the drain has ended (R150, R183). -/
def State.setTheme (s : State) (look : Look) (t : Nat) : State :=
  let b := { s.base with theme := look }
  { s with base := if s.pastDrainEnd then b else b.moveTo look t s.showClock }

/-- THEME_HANDLED (R150). -/
def themeHandled (s : State) : State :=
  match s.handled with
  | some ⟨_, .theme colour level time⟩ =>
    if s.running then s.complete fun s => s.setTheme ⟨colour, level⟩ time.toNat else s
  | _ => s

/-- A layer made single-run (R128, R181). -/
def Layer.singleRun (l : Layer) : Layer := { l with shape := { l.shape with loop := false } }

/-- The entry to DRAINING, before the first test for the drain's end (R181). -/
def State.beginDrain (s : State) (drainTime : Byte) : State :=
  { s with
    nodeState := .draining .proper
    cues := []
    stack := { s.stack with layers := s.stack.layers.map Layer.singleRun }
    drainDeadline := some (later s.showClock (100 * drainTime.toNat)) }

/-- A SLEEP's effect: the drain in ACTIVE, nothing in DRAINING (R33, R181). -/
def State.sleep (s : State) (drainTime : Byte) : State :=
  match s.nodeState with
  | .active => (s.beginDrain drainTime).drainCheck
  | .draining _ | .starting _ | .halted | .asleep | .waking => s

/-- SLEEP_HANDLED (R181). -/
def sleepHandled (s : State) : State :=
  match s.handled with
  | some ⟨_, .sleep drainTime⟩ => if s.running then s.complete fun s => s.sleep drainTime else s
  | _ => s

/-- A WAKE's effect: the return to ACTIVE from DRAINING, nothing in ACTIVE (R185). -/
def State.wake (s : State) : State :=
  match s.nodeState with
  | .draining _ =>
    { s.returnPorts with
      nodeState := .active
      drainDeadline := none
      base := s.base.moveTo s.base.theme s.config.darkFade.toNat s.showClock }
  | .active | .starting _ | .halted | .asleep | .waking => s

/-- WAKE_HANDLED (R185). -/
def wakeHandled (s : State) : State :=
  match s.handled with
  | some ⟨_, .wake⟩ => if s.running then s.complete State.wake else s
  | _ => s

/-- QUERY_HANDLED: a STATUS is requested, which the queue takes while the standing is SPEAKING (R189). -/
def queryHandled (s : State) : State :=
  match s.handled with
  | some ⟨_, .query _⟩ => if s.running then s.complete fun s => s.request (.report .status) else s
  | _ => s

/-- CLEAR_HANDLED (R190). -/
def clearHandled (s : State) : State :=
  match s.handled with
  | some ⟨_, .clear _ mask⟩ => if s.running then s.complete fun s => s.clearNotices mask else s
  | _ => s

/-- STATUS_HANDLED: a peer's STATUS has no effect (R36). -/
def statusHandled (s : State) : State :=
  match s.handled with
  | some ⟨_, .status _⟩ => if s.running then s.complete id else s
  | _ => s

/-! ## The meanings -/

/-- THEME_HANDLED (R150). -/
def execThemeHandled (s : State) : Result := .next (themeHandled s)

/-- SLEEP_HANDLED (R181). -/
def execSleepHandled (s : State) : Result := .next (sleepHandled s)

/-- WAKE_HANDLED (R185). -/
def execWakeHandled (s : State) : Result := .next (wakeHandled s)

/-- QUERY_HANDLED (R189). -/
def execQueryHandled (s : State) : Result := .next (queryHandled s)

/-- CLEAR_HANDLED (R190). -/
def execClearHandled (s : State) : Result := .next (clearHandled s)

/-- STATUS_HANDLED (R36). -/
def execStatusHandled (s : State) : Result := .next (statusHandled s)

end Sys2Proof.Machine
end

