-- ==== Sys2Proof/Machine/Level.lean ====
section
/-! DEFINITION. The dimmer ramp and the cap term's slew (sections 5.4 and 5.5), with the commands DIM_HANDLED,
DIMMER_RAMP_STEP and SLEW_STEP. -/

namespace Sys2Proof.Machine

/-- A DIM's effect on the level unit: at once for a ramp time of 0, else a new ramp from the present D, which
replaces one in progress (R80, R81). -/
def Level.dim (l : Level) (target : Byte) (t : Nat) (now : Clock) : Level :=
  if t = 0 then { l with d := target, ramp := none }.formA
  else { l with ramp := some ⟨l.d, target, t, 0, later now 10⟩ }

/-- One step of the dimmer ramp; the last step ends it (R80). -/
def Level.rampStep (l : Level) (r : Ramp) : Level :=
  let j := r.taken + 1
  { l with
    d := glide r.start r.target j r.steps
    ramp := if j < r.steps then some { r with taken := j, deadline := later r.deadline 10 } else none }.formA

/-- The lower of K + σ and K* (R79). -/
def slewed (k slew target : Byte) : Byte := byteOf (min (k.toNat + slew.toNat) target.toNat)

/-- One slew step, taken at the deadline `deadline` (R79). -/
def Level.slewStep (l : Level) (slew target : Byte) (deadline : Clock) : Level :=
  let k := slewed l.k slew target
  { l with
    k := k
    slewDeadline := if k.toNat < target.toNat then some (later deadline 10) else none }.formA

/-- DIM_HANDLED (R80, R81). -/
def dimHandled (s : State) : State :=
  match s.handled with
  | some ⟨_, .dim level time⟩ =>
    if s.running then s.complete fun s => { s with level := s.level.dim level time.toNat s.showClock } else s
  | _ => s

/-- DIMMER_RAMP_STEP (R80). -/
def dimmerRampStep (s : State) : State :=
  match s.level.ramp with
  | some r => if s.running && reached s.showClock r.deadline then { s with level := s.level.rampStep r } else s
  | none => s

/-- SLEW_STEP (R79). -/
def slewStep (s : State) : State :=
  match s.level.slewDeadline with
  | some d =>
    if s.running && reached s.showClock d then
      { s with level := s.level.slewStep s.config.slew s.target d }
    else s
  | none => s

/-! ## The meanings -/

/-- DIM_HANDLED (R80). -/
def execDimHandled (s : State) : Result := .next (dimHandled s)

/-- DIMMER_RAMP_STEP (R80). -/
def execDimmerRampStep (s : State) : Result := .next (dimmerRampStep s)

/-- SLEW_STEP (R79). -/
def execSlewStep (s : State) : Result := .next (slewStep s)

end Sys2Proof.Machine
end

