-- ==== Sys2Proof/Machine/Record.lean ====
section
/-! DEFINITION. The 96-byte configuration record: its check, the legality of its fields, and the configuration it
gives (R178 and the table of the configuration record). -/

namespace Sys2Proof.Machine

/-- The format marker of byte 0 (R177). -/
def formatMarker : Byte := 0x4C

/-- Byte `i` of the record. -/
def recByte (r : List Byte) (i : Nat) : Byte := r.getD i 0

/-- A read that reached byte 95 with a good marker (R177). -/
def recordRead (r : List Byte) : Bool := decide (r.length = 96) && recByte r 0 == formatMarker

/-- The CRC over bytes 0 to 93 equals bytes 94 and 95 (R178, check 1). -/
def recordCheck (r : List Byte) : Bool := crcBytes (r.take 94) == word16 (recByte r 94) (recByte r 95)

/-- The type in bits 7 and 6 of a port's type byte. -/
def portTypeOf (f : BitVec 2) : PortType :=
  match f.toNat with
  | 0 => .off
  | 1 => .stream
  | 2 => .confirmed
  | _ => .pwm

/-- The frame period a two-bit code selects, in ms. -/
def framePeriodOf (f : BitVec 2) : Nat :=
  match f.toNat with
  | 0 => 5
  | 1 => 10
  | 2 => 20
  | _ => 30

/-- The refresh interval a two-bit code selects, in ms. -/
def refreshOf (f : BitVec 2) : Nat := 50 * (f.toNat + 1)

/-- Port Sk of the record: bytes 13 + 2k and 14 + 2k. -/
def portOf (r : List Byte) (k : Nat) : PortConfig :=
  let t := recByte r (13 + 2 * k)
  ⟨portTypeOf (field t 6 2), flag t 5, framePeriodOf (field t 2 2), refreshOf (field t 0 2),
    (recByte r (14 + 2 * k)).toNat⟩

/-- Segment m of the record: bytes 22 + 3m to 24 + 3m. -/
def segmentOf (r : List Byte) (m : Nat) : Segment :=
  let b := recByte r (22 + 3 * m)
  ⟨(field b 6 2).toFin, (recByte r (23 + 3 * m)).toNat, (recByte r (24 + 3 * m)).toNat, flag b 5⟩

/-- The segment count: bits 2 to 0 of byte 21. -/
def segmentCount (r : List Byte) : Nat := (field (recByte r 21) 0 3).toNat

/-- The predecessor count of route k: bits 1 and 0 of byte 34 + 4k. -/
def predecessorCount (r : List Byte) (k : Nat) : Nat := (field (recByte r (34 + 4 * k)) 0 2).toNat

/-- The predecessors a route's bytes list; a zone named twice is read as named once (R94). -/
def predecessorsOf (r : List Byte) (k : Nat) : List ZoneNo :=
  let p1 := field (recByte r (35 + 4 * k)) 0 5
  let p2 := field (recByte r (36 + 4 * k)) 0 5
  match predecessorCount r k with
  | 0 => []
  | 1 => [p1]
  | _ => if p1 = p2 then [p1] else [p1, p2]

/-- Route k of the record: bytes 34 + 4k to 37 + 4k. -/
def routeOf (r : List Byte) (k : Nat) : RouteEntry :=
  let b := recByte r (34 + 4 * k)
  ⟨flag b 7, if flag b 6 then .both else .first, flag b 5, flag b 4, predecessorsOf r k, recByte r (37 + 4 * k)⟩

/-- The configuration a record gives (the table of the configuration record). -/
def configOf (r : List Byte) : NodeConfig where
  zone := field (recByte r 1) 0 5
  recovery := if flag (recByte r 2) 5 then .peer else .auto
  policy := if flag (recByte r 2) 4 then .refuseNew else .replaceOldest
  vtSelection := field (recByte r 2) 0 3
  presenceCount := (recByte r 3).toNat
  sagCap := recByte r 4
  floor := recByte r 5
  slew := recByte r 6
  themeColour := ⟨recByte r 7, recByte r 8, recByte r 9⟩
  themeLevel := recByte r 10
  defaultDimmer := recByte r 11
  darkFade := recByte r 12
  ports := Vector.ofFn fun k => portOf r k
  segments := (List.range (segmentCount r)).map (segmentOf r)
  routes := Vector.ofFn fun k => routeOf r k

/-- Every spare bit and spare byte is 0. -/
def sparesClear (r : List Byte) : Bool :=
  !spareUsed (recByte r 1) 0xE0 && !spareUsed (recByte r 2) 0xC8 &&
    (List.range 4).all (fun k => !spareUsed (recByte r (13 + 2 * k)) 0x10) &&
    !spareUsed (recByte r 21) 0xF8 &&
    (List.range 4).all (fun m => !spareUsed (recByte r (22 + 3 * m)) 0x1F) &&
    (List.range 8).all (fun k => !spareUsed (recByte r (34 + 4 * k)) 0x0C &&
      !spareUsed (recByte r (35 + 4 * k)) 0xE0 && !spareUsed (recByte r (36 + 4 * k)) 0xE0) &&
    (List.range 28).all (fun i => recByte r (66 + i) == 0)

/-- The types a port allows (R161). -/
def typeAllowed (k : Nat) : PortType → Bool
  | .off | .stream => true
  | .confirmed => decide (2 ≤ k)
  | .pwm => decide (k = 3)

/-- The pixel counts a type allows (R161). -/
def countAllowed (n : Nat) : PortType → Bool
  | .off => decide (n = 0)
  | .stream => decide (1 ≤ n ∧ n ≤ 120)
  | .confirmed => decide (1 ≤ n ∧ n ≤ 128)
  | .pwm => decide (1 ≤ n ∧ n ≤ 4)

/-- The fields of port Sk are legal: type, count, speed, and the rest of an OFF port's type byte. -/
def portLegal (r : List Byte) (k : Nat) : Bool :=
  let p := portOf r k
  typeAllowed k p.type && countAllowed p.pixels p.type &&
    (decide (p.type ≠ .off) || recByte r (13 + 2 * k) == 0) && (decide (p.type = .stream) || !p.slow)

/-- A used segment lies on a working port and within it. -/
def segmentLegal (r : List Byte) (g : Segment) : Bool :=
  let p := portOf r g.port
  decide (p.type ≠ .off) && decide (1 ≤ g.count) && decide (g.first + g.count ≤ p.pixels)

/-- Two segments cover no port pixel in common. -/
def segmentsApart (g h : Segment) : Bool :=
  decide (g.port ≠ h.port) || decide (g.first + g.count ≤ h.first) || decide (h.first + h.count ≤ g.first)

/-- No two segments of the list cover the same port pixel. -/
def allApart : List Segment → Bool
  | [] => true
  | g :: gs => gs.all (segmentsApart g) && allApart gs

/-- The segment part of the record is legal. -/
def segmentsLegal (r : List Byte) : Bool :=
  let n := segmentCount r
  let used := (List.range n).map (segmentOf r)
  decide (1 ≤ n ∧ n ≤ 4) && used.all (segmentLegal r) && allApart used &&
    (List.range 4).all (fun m => decide (m < n) ||
      (recByte r (22 + 3 * m) == 0 && recByte r (23 + 3 * m) == 0 && recByte r (24 + 3 * m) == 0))

/-- A listed predecessor is a station and not the own zone. -/
def predecessorLegal (zone p : ZoneNo) : Bool := decide (p.toNat ≤ 30) && p != zone

/-- The predecessors of route k are legal. -/
def routeLegal (r : List Byte) (k : Nat) : Bool :=
  let zone : ZoneNo := field (recByte r 1) 0 5
  let b1 := recByte r (35 + 4 * k)
  let b2 := recByte r (36 + 4 * k)
  match predecessorCount r k with
  | 0 => b1 == 0 && b2 == 0
  | 1 => predecessorLegal zone (field b1 0 5) && b2 == 0
  | 2 => predecessorLegal zone (field b1 0 5) && predecessorLegal zone (field b2 0 5)
  | _ => false

/-- The pixel counts of the four ports total at most 256 (R161). -/
def pixelTotal (r : List Byte) : Nat := ((List.range 4).map fun k => (recByte r (14 + 2 * k)).toNat).sum

/-- Every field of the record holds a legal value (R178, check 2). -/
def recordLegal (r : List Byte) : Bool :=
  sparesClear r && decide ((field (recByte r 1) 0 5).toNat ≤ 30) &&
    decide (2 ≤ (recByte r 3).toNat ∧ (recByte r 3).toNat ≤ 40) && recByte r 6 != 0 &&
    (List.range 4).all (portLegal r) && decide (pixelTotal r ≤ 256) && segmentsLegal r &&
    (List.range 8).all (routeLegal r)

/-- Both checks pass (R178). -/
def recordGood (r : List Byte) : Bool := recordCheck r && recordLegal r

end Sys2Proof.Machine
end

