-- ==== Sys2Proof/Machine/Supply.lean ====
section
/-! DEFINITION. The supply monitor (chapter 6): bands, states, the own cap and its handing on, with the commands
BAND_EVENT, SETTLE_TIMER_EXPIRY and RELEASE_TIMER_EXPIRY. -/

namespace Sys2Proof.Machine

/-- The threshold V_t of a selection (R86). -/
def threshold (selection : BitVec 3) : Millivolts := 9000 + 500 * selection.toNat

/-- The band of a supply voltage (R86). -/
def bandOf (selection : BitVec 3) (v : Millivolts) : Band :=
  if v < 7000 then .b0
  else if v < 7400 then .b1
  else if v < threshold selection then .b2
  else if v < threshold selection + 400 then .b3
  else .b4

/-- The own cap of a supply state (R87). -/
def SupplyState.cap (sagCap : Byte) : SupplyState → Byte
  | .normal | .sagPending => 255
  | .sag | .recoverPending => sagCap
  | .deep => 0

/-- The supply state after a band event; the move out of DEEP into B4 passes through SAG (R88). -/
def SupplyState.onBand : SupplyState → Band → SupplyState
  | .normal, .b0 => .deep
  | .normal, .b1 | .normal, .b2 => .sagPending
  | .normal, .b3 | .normal, .b4 => .normal
  | .sagPending, .b0 => .deep
  | .sagPending, .b1 | .sagPending, .b2 => .sagPending
  | .sagPending, .b3 | .sagPending, .b4 => .normal
  | .sag, .b0 => .deep
  | .sag, .b1 | .sag, .b2 | .sag, .b3 => .sag
  | .sag, .b4 => .recoverPending
  | .recoverPending, .b0 => .deep
  | .recoverPending, .b1 | .recoverPending, .b2 | .recoverPending, .b3 => .sag
  | .recoverPending, .b4 => .recoverPending
  | .deep, .b0 | .deep, .b1 => .deep
  | .deep, .b2 | .deep, .b3 => .sag
  | .deep, .b4 => .recoverPending

/-- The monitor in a state just entered: the state's own cap, and its timer started (R87, R88). -/
def Supply.enter (u : Supply) (st : SupplyState) (sagCap : Byte) (now : Clock) : Supply :=
  { u with
    state := st
    ownCap := st.cap sagCap
    settle := if st = .sagPending then some (later now 20) else none
    release := if st = .recoverPending then some (later now 500) else none }

/-- A change of the own cap is handed to the level unit and the outgoing queue (R92). -/
def State.handOnCap (s : State) (old : Byte) : State :=
  if s.supply.ownCap = old then s else s.formTarget.request (.report .cap)

/-- The supply state moves; a state that stays leaves the timers as they are (R87, R88, R91, R92). -/
def State.moveSupply (s : State) (st : SupplyState) : State :=
  if st = s.supply.state then s
  else
    let old := s.supply.ownCap
    let s := { s with supply := s.supply.enter st s.config.sagCap s.showClock }
    (s.raiseIf (decide (st = .deep)) .supplyDeep).handOnCap old

/-- The monitor acts on the band the supply has arrived in (R86, R88). -/
def State.takeBand (s : State) (b : Band) : State :=
  { s with supply := { s.supply with band := b } }.moveSupply (s.supply.state.onBand b)

/-- BAND_EVENT: the measured supply has passed into another band (R86, R88). -/
def bandEvent (v : Millivolts) (s : State) : State :=
  let b := bandOf s.config.vtSelection v
  if s.running && decide (b ≠ s.supply.band) then s.takeBand b else s

/-- SETTLE_TIMER_EXPIRY (R89). -/
def settleTimerExpiry (s : State) : State :=
  if s.running && decide (s.supply.state = .sagPending) && due s.showClock s.supply.settle then
    (s.moveSupply .sag).raise .supplySag
  else s

/-- RELEASE_TIMER_EXPIRY (R90). -/
def releaseTimerExpiry (s : State) : State :=
  if s.running && decide (s.supply.state = .recoverPending) && due s.showClock s.supply.release then
    s.moveSupply .normal
  else s

/-! ## The meanings -/

/-- BAND_EVENT (R88). -/
def execBandEvent (supply : Millivolts) (s : State) : Result := .next (bandEvent supply s)

/-- SETTLE_TIMER_EXPIRY (R89). -/
def execSettleTimerExpiry (s : State) : Result := .next (settleTimerExpiry s)

/-- RELEASE_TIMER_EXPIRY (R90). -/
def execReleaseTimerExpiry (s : State) : Result := .next (releaseTimerExpiry s)

end Sys2Proof.Machine
end

