-- ==== Sys2Proof/Machine/Startup.lean ====
section
/-! DEFINITION. Start-up and wake (sections 11.1 to 11.4 and 11.8): the configuration read and the entry to ACTIVE,
with the commands POWER_ON_START, RESET_RELEASE, CONFIG_READ_FAILURE, CONFIG_READ_RETRY, CONFIG_READ_DONE and
WAKING_END. -/

namespace Sys2Proof.Machine

/-! ## The entry to ACTIVE -/

/-- The base at an entry to ACTIVE: the default theme colour at level 0, moving to the default theme (R153). -/
def Base.start (c : NodeConfig) (now : Clock) : Base :=
  Base.moveTo ⟨⟨c.themeColour, 0⟩, ⟨c.themeColour, c.themeLevel⟩, none⟩ ⟨c.themeColour, c.themeLevel⟩
    c.darkFade.toNat now

/-- The blocks' values at an entry to ACTIVE, before the PRESENCE is queued (R22, R84, R93, R121, R174, R180, R191). -/
def State.activated (s : State) : State where
  nodeState := .active
  config := s.config
  showClock := 0
  drainDeadline := none
  bus := { BusPort.powerOn with line := .outside .rise 0 }
  out := ⟨[], 0⟩
  intake := Intake.empty
  roster := { Roster.powerOn with presenceTimer := some (later 0 (presenceInterval s.config)) }
  level := Level.formA { Level.powerOn with d := s.config.defaultDimmer }
  supply := Supply.powerOn
  cues := []
  stack := ⟨[], 0⟩
  base := Base.start s.config 0
  ports := Vector.ofFn fun p => Port.start s.config.ports[p] 0
  pwm := Vector.replicate 12 0
  status := ⟨0, GroupFlags.clear⟩
  pending := s.pending

/-- The entry to ACTIVE: the blocks' values, the PRESENCE, and last the first band event (R93, R180). -/
def State.enterActive (s : State) (v : Millivolts) : State :=
  (s.activated.request (.report .presence)).takeBand (bandOf s.config.vtSelection v)

/-! ## The commands -/

/-- POWER_ON_START: every block takes its power-on values; the reading begins now, or at the release of RESET_N
(R176). The record of before is no longer in use. -/
def powerOnStart (cause : PowerCause) (s : State) : State :=
  match cause with
  | .powerUp => State.powerOn (.reading 0) s.pending
  | .resetAsserted => State.powerOn .resetHeld s.pending

/-- RESET_RELEASE: STARTING begins with the first read (R176, R177). -/
def resetRelease (s : State) : State :=
  match s.nodeState with
  | .starting .resetHeld => { s with nodeState := .starting (.reading 0) }
  | .starting (.reading _) | .starting (.waiting _) | .halted | .active | .draining _ | .asleep | .waking => s

/-- CONFIG_READ_FAILURE: byte 0 is not the format marker; a 5 ms wait, or HALTED at the third failure (R177). -/
def configReadFailure (byte0 : Byte) (s : State) : State :=
  match s.nodeState with
  | .starting (.reading n) =>
    if byte0 ≠ formatMarker then
      { s with nodeState := if n < 2 then .starting (.waiting (n + 1)) else .halted }
    else s
  | .starting .resetHeld | .starting (.waiting _) | .halted | .active | .draining _ | .asleep | .waking => s

/-- CONFIG_READ_RETRY: the 5 ms wait ends and the record is read again from byte 0 (R177). -/
def configReadRetry (s : State) : State :=
  match s.nodeState with
  | .starting (.waiting n) => { s with nodeState := .starting (.reading n) }
  | .starting .resetHeld | .starting (.reading _) | .halted | .active | .draining _ | .asleep | .waking => s

/-- CONFIG_READ_DONE: the record read is checked and taken into use, or the node goes to HALTED (R178 to R180). -/
def configReadDone (record : List Byte) (v : Millivolts) (s : State) : State :=
  match s.nodeState with
  | .starting (.reading _) =>
    if recordRead record then
      if recordGood record then { s with config := configOf record }.enterActive v
      else { s with nodeState := .halted }
    else s
  | .starting .resetHeld | .starting (.waiting _) | .halted | .active | .draining _ | .asleep | .waking => s

/-- WAKING_END: WAKING has lasted 3 ms (R186). -/
def wakingEnd (v : Millivolts) (s : State) : State := if s.nodeState = .waking then s.enterActive v else s

/-! ## The meanings -/

/-- POWER_ON_START (R176). -/
def execPowerOnStart (cause : PowerCause) (s : State) : Result := .next (powerOnStart cause s)

/-- RESET_RELEASE (R176). -/
def execResetRelease (s : State) : Result := .next (resetRelease s)

/-- CONFIG_READ_FAILURE (R177). -/
def execConfigReadFailure (byte0 : Byte) (s : State) : Result := .next (configReadFailure byte0 s)

/-- CONFIG_READ_RETRY (R177). -/
def execConfigReadRetry (s : State) : Result := .next (configReadRetry s)

/-- CONFIG_READ_DONE (R178). -/
def execConfigReadDone (record : List Byte) (supply : Millivolts) (s : State) : Result :=
  .next (configReadDone record supply s)

/-- WAKING_END (R186). -/
def execWakingEnd (supply : Millivolts) (s : State) : Result := .next (wakingEnd supply s)

end Sys2Proof.Machine
end

