-- ==== Sys2Proof/Machine/Dispatch.lean ====
section
/-! DEFINITION. One arm per command: the dispatch to the meanings. -/

namespace Sys2Proof.Machine

/-- The effect of a command on everything but the queue. -/
def exec (i : Instr) (s : State) : Host.Outcome State Fault Refusal :=
  match i with
  | .powerOnStart cause => Sys2Proof.Machine.execPowerOnStart cause s
  | .resetRelease => Sys2Proof.Machine.execResetRelease s
  | .configReadFailure byte0 => Sys2Proof.Machine.execConfigReadFailure byte0 s
  | .configReadRetry => Sys2Proof.Machine.execConfigReadRetry s
  | .configReadDone record supply => Sys2Proof.Machine.execConfigReadDone record supply s
  | .wakingEdge => Sys2Proof.Machine.execWakingEdge s
  | .wakingEnd supply => Sys2Proof.Machine.execWakingEnd supply s
  | .attemptStart gap => Sys2Proof.Machine.execAttemptStart gap s
  | .attemptSent => Sys2Proof.Machine.execAttemptSent s
  | .attemptVoided => Sys2Proof.Machine.execAttemptVoided s
  | .readbackFault position bit => Sys2Proof.Machine.execReadbackFault position bit s
  | .contentionLost headerBit => Sys2Proof.Machine.execContentionLost headerBit s
  | .lineStuckCondition dominant => Sys2Proof.Machine.execLineStuckCondition dominant s
  | .silentRecovery recessive => Sys2Proof.Machine.execSilentRecovery recessive s
  | .quietPeriodExpiry => Sys2Proof.Machine.execQuietPeriodExpiry s
  | .frameTaken bits => Sys2Proof.Machine.execFrameTaken bits s
  | .frameVoided bits => Sys2Proof.Machine.execFrameVoided bits s
  | .frameDiscarded bits => Sys2Proof.Machine.execFrameDiscarded bits s
  | .frameCutShort bits => Sys2Proof.Machine.execFrameCutShort bits s
  | .presenceDelivered => Sys2Proof.Machine.execPresenceDelivered s
  | .capDelivered => Sys2Proof.Machine.execCapDelivered s
  | .callHandled => Sys2Proof.Machine.execCallHandled s
  | .cancelHandled => Sys2Proof.Machine.execCancelHandled s
  | .handoffHandled => Sys2Proof.Machine.execHandoffHandled s
  | .themeHandled => Sys2Proof.Machine.execThemeHandled s
  | .dimHandled => Sys2Proof.Machine.execDimHandled s
  | .sleepHandled => Sys2Proof.Machine.execSleepHandled s
  | .wakeHandled => Sys2Proof.Machine.execWakeHandled s
  | .queryHandled => Sys2Proof.Machine.execQueryHandled s
  | .clearHandled => Sys2Proof.Machine.execClearHandled s
  | .statusHandled => Sys2Proof.Machine.execStatusHandled s
  | .absenceExpiry zone => Sys2Proof.Machine.execAbsenceExpiry zone s
  | .presenceTimerExpiry => Sys2Proof.Machine.execPresenceTimerExpiry s
  | .slewStep => Sys2Proof.Machine.execSlewStep s
  | .dimmerRampStep => Sys2Proof.Machine.execDimmerRampStep s
  | .bandEvent supply => Sys2Proof.Machine.execBandEvent supply s
  | .settleTimerExpiry => Sys2Proof.Machine.execSettleTimerExpiry s
  | .releaseTimerExpiry => Sys2Proof.Machine.execReleaseTimerExpiry s
  | .fallbackExpiry key => Sys2Proof.Machine.execFallbackExpiry key s
  | .delayExpiry key => Sys2Proof.Machine.execDelayExpiry key s
  | .layerPhaseAdvance key => Sys2Proof.Machine.execLayerPhaseAdvance key s
  | .fadeStep key => Sys2Proof.Machine.execFadeStep key s
  | .transitionStep => Sys2Proof.Machine.execTransitionStep s
  | .portFrameEvent port => Sys2Proof.Machine.execPortFrameEvent port s
  | .sendFinish port => Sys2Proof.Machine.execSendFinish port s
  | .markerShifted port => Sys2Proof.Machine.execMarkerShifted port s
  | .echoArrival port echo => Sys2Proof.Machine.execEchoArrival port echo s
  | .echoTimeout port => Sys2Proof.Machine.execEchoTimeout port s
  | .probeDeadline port => Sys2Proof.Machine.execProbeDeadline port s
  | .darkFrameSent port => Sys2Proof.Machine.execDarkFrameSent port s
  | .drainTimerExpiry => Sys2Proof.Machine.execDrainTimerExpiry s
  | .enterAsleep => Sys2Proof.Machine.execEnterAsleep s
  | .showTick => Sys2Proof.Machine.execShowTick s
  | .startBit gap => Sys2Proof.Machine.execStartBit gap s
  | .lineNoise gap => Sys2Proof.Machine.execLineNoise gap s

end Sys2Proof.Machine
end

