-- ==== Sys2Proof/Machine/Pins.lean ====
section
/-! DEFINITION. The S pins as the outside sees them (R161, R162, R168, R169, R173, R174): what each pin is used for under
a configuration, and what stands on it in a state. -/

namespace Sys2Proof.Machine

/-- The S pins (00_scope.md, Pin summary). -/
inductive Pin where
  | s0d
  | s1d
  | s2d
  | s2c
  | s2e
  | s3 (k : Fin 12)
deriving DecidableEq, Repr

/-- The port whose pin it is. -/
def Pin.port : Pin → Fin 4
  | .s0d => 0
  | .s1d => 1
  | .s2d | .s2c | .s2e => 2
  | .s3 _ => 3

/-- What a pin is used for. -/
inductive PinUse where
  | unused
  | data
  | clock
  | echo
  /-- A PWM channel. -/
  | channel (k : Fin 12)
deriving DecidableEq, Repr

/-- What the port's type and pixel count make of a pin; on a PWM port the channels beyond three times the pixel count
are unused (R161). -/
def Pin.use (c : PortConfig) : Pin → PinUse
  | .s0d | .s1d | .s2d => if c.type = .stream ∨ c.type = .confirmed then .data else .unused
  | .s2c => if c.type = .confirmed then .clock else .unused
  | .s2e => if c.type = .confirmed then .echo else .unused
  | .s3 k =>
    match c.type with
    | .off => .unused
    | .stream => if k = 0 then .data else .unused
    | .confirmed => if k = 0 then .data else if k = 1 then .clock else if k = 2 then .echo else .unused
    | .pwm => if k.val < 3 * c.pixels then .channel k else .unused

/-- What stands on a pin. -/
inductive PinDrive where
  /-- Held low. -/
  | low
  /-- Used, with nothing going over it: its level is a data sheet matter (R162; log entry 28). -/
  | rest
  /-- A data pin shifts these bits, the first of them first; a latch gap after them holds it low. -/
  | shifts (bits : List Bool)
  /-- A clock pin runs with the shift. -/
  | clocks
  /-- An echo pin is watched for the echo bits. -/
  | watched
  /-- A PWM channel with a duty of `v` / 255. -/
  | duty (v : Byte)
deriving DecidableEq, Repr

/-- What a port of this type and use of the pin shows while its node runs (R161, R162, R168, R169, R173). -/
def Port.drive (x : Port) (t : PortType) (p : Fin 4) (pwm : Vector Byte 12) : PinUse → PinDrive
  | .unused => .low
  | .channel k => if x.state = .dark then .low else .duty pwm[k]
  | .data =>
    match x.shift with
    | some sh => .shifts (sendBits t p sh.frame sh.count)
    | none => if x.state = .dark then .low else .rest
  | .clock => if x.shift.isSome then .clocks else if x.state = .dark then .low else .rest
  | .echo => if x.activity = .echoWait then .watched else if x.state = .dark then .low else .rest

/-- What stands on a pin: every S pin is low unless the node is ACTIVE or DRAINING (R174). -/
def State.pin (s : State) (pin : Pin) : PinDrive :=
  let c := s.config.ports[pin.port]
  if s.running then s.ports[pin.port].drive c.type pin.port s.pwm (pin.use c) else .low

end Sys2Proof.Machine
end

