-- ==== Sys2Proof/WellFormed.lean ====
section
/-! DEFINITION. The well-formed commands: those whose operands can come with the event the command stands for. An
ill-formed command has no effect, since its meaning tests the same conditions (log entry 1). -/

namespace Sys2Proof

open Sys2Proof.Machine

/-- A cue key that a CALL can have: a station's zone and a tag above 0 (R29). -/
def CueKey.wf (k : CueKey) : Bool := decide (k.origin ≠ 31) && decide (k.tag ≠ 0)

/-- The operands can come with the event. -/
def Instr.wf : Instr → Bool
  | .configReadFailure byte0 => decide (byte0 ≠ formatMarker)
  | .configReadDone record _ => recordRead record
  | .attemptStart gap => gapMayBeIdle gap
  | .readbackFault position bit => decide (position < 33 + 8 * 14) && bitConsistent bit
  | .lineStuckCondition dominant => lineStuck dominant
  | .silentRecovery recessive => lineHealthy recessive
  | .frameTaken bits => rxComplete bits && !rxFaulty bits
  | .frameVoided bits => rxComplete bits
  | .frameDiscarded bits => rxComplete bits && rxFaulty bits
  | .frameCutShort bits => rxCut bits
  | .fallbackExpiry key | .delayExpiry key | .layerPhaseAdvance key | .fadeStep key => key.wf
  | .startBit gap => gapMayBeIdle gap
  | .lineNoise gap => gapMayBeNoise gap
  | .powerOnStart _ | .resetRelease | .configReadRetry | .wakingEdge | .wakingEnd _ | .attemptSent | .attemptVoided
  | .contentionLost _ | .quietPeriodExpiry | .presenceDelivered | .capDelivered | .callHandled | .cancelHandled
  | .handoffHandled | .themeHandled | .dimHandled | .sleepHandled | .wakeHandled | .queryHandled | .clearHandled
  | .statusHandled | .absenceExpiry _ | .presenceTimerExpiry | .slewStep | .dimmerRampStep | .bandEvent _
  | .settleTimerExpiry | .releaseTimerExpiry | .transitionStep | .portFrameEvent _ | .sendFinish _
  | .markerShifted _ | .echoArrival _ _ | .echoTimeout _ | .probeDeadline _ | .darkFrameSent _
  | .drainTimerExpiry | .enterAsleep | .showTick => true

end Sys2Proof
end

