-- ==== Sys2Proof/Safety.lean ====
section
/-! DEFINITION. What holds of the node in every state a run can reach, block by block: the invariants that the
statements of Certificates/Slice0 speak of, and the values of an entry to ACTIVE. -/

namespace Sys2Proof.Machine

/-! ## Bus port -/

/-- The bus port is sound: the runs are below their limits (R15, R19, R20), and the quiet period, the attempt and
the line watch fit the standing and the node state (R16, R18, R21, R22). -/
structure BusSound (s : State) : Prop where
  voidRun : s.bus.voidRun < 8
  faultRun : s.bus.faultRun < 16
  cleanRun : s.bus.cleanRun < 16
  mutedRun : s.bus.muted = true → s.bus.faultRun = 0
  unmutedRun : s.bus.muted = false → s.bus.cleanRun = 0
  quiet : s.bus.quietDeadline.isSome = true → s.bus.standing = .listenOnly ∧ s.bus.expiryMark = false
  mark : s.bus.expiryMark = true → s.bus.standing = .listenOnly ∧ s.config.recovery = .peer
  waiting : s.running = true → s.bus.standing = .listenOnly →
    s.bus.quietDeadline.isSome = true ∨ s.bus.expiryMark = true
  attempt : s.bus.inAttempt = true → s.bus.standing = .speaking
  watched : s.bus.line = .unwatched ↔ s.running = false
  silent : s.running = true → s.bus.standing = .silent → s.bus.isOutside = true

/-! ## Outgoing queue -/

/-- An entry of the queue is sound: its header is its kind's, its budget is within its kind's, it names a wave
exactly when it is a HANDOFF, and its marks are those its kind can have in flight (R23, R54, R57, R58, R66, R188). -/
structure SendEntry.Sound (zone : ZoneNo) (e : SendEntry) : Prop where
  header : e.header = sendHeader e.kind zone
  budget : 1 ≤ e.budget ∧ e.budget ≤ e.kind.budget
  wave : e.wave.isSome = true ↔ e.kind = .handoff
  renew : e.renew = true → e.inFlight = true ∧ e.kind ≠ .handoff
  withdrawn : e.withdrawn = true → e.inFlight = true ∧ e.kind = .handoff
  marks : e.clearMarks ≠ GroupFlags.clear → e.inFlight = true ∧ e.kind = .presence

/-- One entry stands ahead of another: a lower header, or an earlier place in entry order at the same one (R55). -/
def SendEntry.Ahead (a b : SendEntry) : Prop :=
  a.header.toNat < b.header.toNat ∨ (a.header = b.header ∧ a.order < b.order)

/-- Two entries do not stand for one request (R54). -/
def SendEntry.Apart (a b : SendEntry) : Prop :=
  a.order ≠ b.order ∧ ¬(a.kind = b.kind ∧ a.wave.map Wave.key = b.wave.map Wave.key)

/-- The outgoing queue is sound (R54 to R58, R67, R68). -/
structure QueueSound (s : State) : Prop where
  entry : ∀ e ∈ s.out.entries, e.Sound s.config.zone
  length : s.out.entries.length ≤ 4
  ordered : s.out.entries.Pairwise SendEntry.Ahead
  apart : s.out.entries.Pairwise SendEntry.Apart
  counter : ∀ e ∈ s.out.entries, e.order < s.out.nextOrder
  empty : s.takesRequests = false → s.out.entries = []
  attempt : (s.out.entries.filter SendEntry.inFlight).length = s.bus.inAttempt.toNat
  speaking : s.bus.inAttempt = true → s.takesRequests = true

/-! ## Intake and roster -/

/-- The zone of a roster frame's origin. -/
def RosterFrame.zone : RosterFrame → Fin 31
  | .presence i _ _ => i
  | .cap i _ => i

/-- The intake is sound (R49, R50, R52, R53) and the roster is (R69, R72, R74, R75). -/
structure RosterSound (s : State) : Prop where
  fifo : s.intake.fifo.length ≤ 4
  taken : s.intake.slot = none → s.intake.fifo = []
  idle : s.running = false → s.intake = Intake.empty
  inbox : ∀ f ∈ s.intake.inbox, f.zone.val ≠ s.config.zone.toNat
  absent : s.running = false → ∀ i : Fin 31, s.roster.entries[i] = none
  own : s.running = true → ∀ i : Fin 31, i.val = s.config.zone.toNat → s.roster.entries[i] = none
  deadline : ∀ (i : Fin 31) (p : Peer), s.roster.entries[i] = some p → p.absence = later p.lastHeard s.absenceTime
  timer : s.roster.presenceTimer.isSome = s.running

/-! ## Level and supply -/

/-- The level unit is sound: A is the lower of D and K, K is at most K*, and the slew and the ramp are as R78 to R82
leave them. -/
structure LevelSound (s : State) : Prop where
  applied : s.level.a = lower s.level.d s.level.k
  capped : s.level.k.toNat ≤ s.target.toNat
  ownCap : s.level.a.toNat ≤ s.supply.ownCap.toNat
  slew : s.running = true → (s.level.slewDeadline.isSome = true ↔ s.level.k.toNat < s.target.toNat)
  stopped : s.running = false → s.level.slewDeadline = none ∧ s.level.ramp = none
  ramp : ∀ r, s.level.ramp = some r → r.taken < r.steps ∧ s.level.d = glide r.start r.target r.taken r.steps

/-- The supply monitor is sound: the own cap and the running timer are those of the state, and the state is one that
the band leaves as it is (R87, R88). -/
structure SupplySound (s : State) : Prop where
  ownCap : s.supply.ownCap = s.supply.state.cap s.config.sagCap
  settle : s.running = true → (s.supply.settle.isSome = true ↔ s.supply.state = .sagPending)
  release : s.running = true → (s.supply.release.isSome = true ↔ s.supply.state = .recoverPending)
  stopped : s.running = false → s.supply.settle = none ∧ s.supply.release = none
  band : s.supply.state.onBand s.supply.band = s.supply.state

/-! ## Cue engine -/

/-- An intake entry is sound: a CALL names a key and has a period (R28, R29, R45). -/
def IntakeEntry.Sound (e : IntakeEntry) : Prop :=
  match e.order with
  | .call tag _ shape _ => CueKey.wf ⟨e.origin, tag⟩ = true ∧ shape.period ≠ 0
  | _ => True

/-- A record of the cue list is sound (R95, R96, R99, R100, R107). -/
structure CueRecord.Sound (c : NodeConfig) (r : CueRecord) : Prop where
  key : r.key.wf = true
  period : r.shape.period ≠ 0
  awaiting : r.state = .awaitHandoff →
    (c.route r.route).predecessors ≠ [] ∧ joinMet (c.route r.route) r.arrived = false ∧ r.delay = none ∧
      (r.fallback.isSome = true ↔ (c.route r.route).fallback ≠ 0)
  delaying : r.state = .delaying → r.fallback = none ∧ r.delay.isSome = true

/-- A layer is sound: phase, opacity and fade are what its state allows (R123, R125, R126, R129). -/
structure Layer.Sound (l : Layer) : Prop where
  key : l.key.wf = true
  period : l.shape.period ≠ 0
  unit : l.subCount ≤ l.shape.unit
  running : l.state = .running → l.phase < l.shape.period.toNat ∧ l.fade = none ∧ l.opacity = 255
  held : l.state = .held →
    l.phase = l.shape.period.toNat ∧ l.fade = none ∧ l.opacity = 255 ∧ l.shape.loop = false
  fading : l.state = .fading → l.phase ≤ l.shape.period.toNat ∧
    ∃ f, l.fade = some f ∧ f.taken < f.steps ∧ l.opacity = byteOf (f.start.toNat - f.start.toNat * f.taken / f.steps)

/-- The cue engine is sound: the list and the stack keep their sizes, orders and keys, no key is in both, and they
are empty where the node state has them empty (R96 to R98, R123, R124, R145, R181). -/
structure CueSound (s : State) : Prop where
  cues : ∀ c ∈ s.cues, c.Sound s.config
  cueCount : s.cues.length ≤ 8
  cueKeys : (s.cues.map CueRecord.key).Nodup
  layers : ∀ l ∈ s.stack.layers, l.Sound
  layerCount : s.stack.layers.length ≤ 6
  layerKeys : (s.stack.layers.map Layer.key).Nodup
  stacked : s.stack.layers.Pairwise fun a b => b.above a = true
  orders : (s.stack.layers.map Layer.startOrder).Nodup
  counter : ∀ l ∈ s.stack.layers, l.startOrder < s.stack.nextStart
  oneHome : ∀ c ∈ s.cues, ∀ l ∈ s.stack.layers, c.key ≠ l.key
  waiting : s.nodeState ≠ .active → s.cues = []
  empty : s.running = false → s.stack.layers = []
  single : s.isDraining = true → ∀ l ∈ s.stack.layers, l.shape.loop = false
  fifo : ∀ e ∈ s.intake.fifo, e.Sound
  slot : ∀ h, s.intake.slot = some h → h.entry.Sound

/-! ## Base and drain -/

/-- The drain and the base are sound: the drain timer runs in the drain proper alone, each phase of a drain holds
what ends it off, and a transition stands at the look of its last step (R149, R151, R181 to R184). -/
structure DrainSound (s : State) : Prop where
  deadline : s.drainDeadline.isSome = true ↔ s.nodeState = .draining .proper
  waiting : s.isDraining = true → s.cues = []
  proper : s.nodeState = .draining .proper → s.stack.settled = false
  dark : s.nodeState = .draining .dark →
    (∀ l ∈ s.stack.layers, l.state = .fading) ∧ (s.base.dark && s.stack.layers.isEmpty) = false
  ordered : s.nodeState = .draining .ordered → s.base.dark = true ∧ s.stack.layers = []
  transition : ∀ tr, s.base.transition = some tr →
    s.running = true ∧ tr.taken < tr.steps ∧ s.base.current = glideLook tr.start tr.target tr.taken tr.steps

/-! ## Ports -/

/-- A port is sound: slot, deadlines, failure run, activity and shift are what its state and type allow (R163, R164,
R167 to R171, R173). -/
structure Port.Sound (c : PortConfig) (x : Port) : Prop where
  slot : x.slot.isSome = true → x.state = .shifting ∨ x.state = .awaitEcho
  off : x.state = .off → c.type = .off ∧ x.activity = .none
  idle : x.state = .idle → c.type ≠ .off ∧ x.activity = .none
  shifting : x.state = .shifting → (c.type = .stream ∨ c.type = .confirmed) ∧ x.activity = .shifting
  awaitEcho : x.state = .awaitEcho → c.type = .confirmed ∧ x.activity = .echoWait
  faulted : x.state = .faulted → c.type = .confirmed ∧ x.failureRun = 3 ∧ x.activity ≠ .darkShifting
  sane : x.state ≠ .faulted → x.failureRun ≤ 2
  probe : x.probeDeadline.isSome = true ↔ x.state = .faulted
  frame : x.frameDeadline.isSome = true ↔ x.state ≠ .off ∧ x.state ≠ .dark
  dark : x.state = .dark → x.activity ≠ .echoWait ∧
    (x.activity ≠ .none → c.type = .stream ∨ c.type = .confirmed)
  echo : x.echoTimeout.isSome = true ↔ x.activity = .echoWait
  reported : x.reportedDark = true → x.state = .dark ∧ x.activity = .none
  shift : x.shift.isSome = true ↔ x.activity = .shifting ∨ x.activity = .darkShifting

/-- The ports are sound: each is, they are DARK exactly where the node state has them so, and a DARK port's channels
are at duty 0 (R173, R174). -/
structure PortsSound (s : State) : Prop where
  port : ∀ p : Fin 4, s.ports[p].Sound s.config.ports[p]
  lit : s.running = true → s.nodeState ≠ .draining .ordered → ∀ p : Fin 4, s.ports[p].state ≠ .dark
  darkened : s.running = false ∨ s.nodeState = .draining .ordered →
    (∀ p : Fin 4, s.ports[p].state = .dark) ∧ s.pwm = Vector.replicate 12 0

/-! ## Configuration -/

/-- A port's part of the configuration is legal for port Sk (R161, R178). -/
structure PortConfig.Legal (k : Fin 4) (p : PortConfig) : Prop where
  allowed : (p.type = .confirmed → 2 ≤ k.val) ∧ (p.type = .pwm → k.val = 3)
  off : p.type = .off → p.pixels = 0
  stream : p.type = .stream → 1 ≤ p.pixels ∧ p.pixels ≤ 120
  confirmed : p.type = .confirmed → 1 ≤ p.pixels ∧ p.pixels ≤ 128
  pwm : p.type = .pwm → 1 ≤ p.pixels ∧ p.pixels ≤ 4
  speed : p.slow = true → p.type = .stream
  period : p.framePeriod ∈ [5, 10, 20, 30]
  refresh : p.refreshInterval ∈ [50, 100, 150, 200]

/-- A route's part of the configuration is legal (R94, R178). -/
structure RouteEntry.Legal (zone : ZoneNo) (r : RouteEntry) : Prop where
  count : r.predecessors.length ≤ 2
  once : r.predecessors.Nodup
  station : ∀ z ∈ r.predecessors, z ≠ 31 ∧ z ≠ zone

/-- The configuration is one that a good record gives (R146, R161, R178). -/
structure NodeConfig.Legal (c : NodeConfig) : Prop where
  zone : c.zone ≠ 31
  presence : 2 ≤ c.presenceCount ∧ c.presenceCount ≤ 40
  slew : c.slew ≠ 0
  ports : ∀ k : Fin 4, PortConfig.Legal k c.ports[k]
  total : c.ports[0].pixels + c.ports[1].pixels + c.ports[2].pixels + c.ports[3].pixels ≤ 256
  segmentCount : 1 ≤ c.segments.length ∧ c.segments.length ≤ 4
  segments : ∀ g ∈ c.segments,
    c.ports[g.port].type ≠ .off ∧ 1 ≤ g.count ∧ g.first + g.count ≤ c.ports[g.port].pixels
  apart : c.segments.Pairwise fun g h => ∀ k pixel, ¬(Segment.covers g k pixel = true ∧ Segment.covers h k pixel = true)
  routes : ∀ k : Fin 8, RouteEntry.Legal c.zone c.routes[k]

/-- The configuration of a node that has read its record is legal (R178). -/
def ConfigSound (s : State) : Prop :=
  s.running = true ∨ s.nodeState = .asleep ∨ s.nodeState = .waking → NodeConfig.Legal s.config

/-! ## The entry to ACTIVE -/

/-- The own supply is deep at this voltage. -/
def deepAt (c : NodeConfig) (v : Millivolts) : Bool := decide (bandOf c.vtSelection v = .b0)

/-- The values of an entry to ACTIVE with configuration `c` at supply `v` (R180 and the rules its table names). -/
structure EnteredActive (c : NodeConfig) (v : Millivolts) (t : State) : Prop where
  node : t.nodeState = .active ∧ t.showClock = 0 ∧ t.config = c ∧ t.drainDeadline = none
  bus : t.bus.standing = .speaking ∧ t.bus.voidRun = 0 ∧ t.bus.faultRun = 0 ∧ t.bus.cleanRun = 0 ∧
    t.bus.muted = false ∧ t.bus.quietDeadline = none ∧ t.bus.expiryMark = false ∧ t.bus.line = .outside .rise 0
  queue : t.out.entries.map (fun e => (e.kind, e.header, e.budget, e.inFlight)) =
    (if deepAt c v then [(.cap, sendHeader .cap c.zone, 3, false)] else []) ++
      [(.presence, sendHeader .presence c.zone, 1, false)]
  intake : t.intake.fifo = [] ∧ t.intake.slot = none
  roster : (∀ i : Fin 31, t.roster.entries[i] = none) ∧ t.roster.completionStamp = none ∧
    t.roster.presenceTimer = some (BitVec.ofNat 32 (50 * c.presenceCount))
  level : t.level.d = c.defaultDimmer ∧ t.level.k = (if deepAt c v then 0 else 255) ∧
    t.level.a = lower t.level.d t.level.k ∧ t.level.slewDeadline = none ∧ t.level.ramp = none
  supply : t.supply.state = SupplyState.onBand .normal (bandOf c.vtSelection v) ∧
    t.supply.ownCap = (if deepAt c v then 0 else 255) ∧
    t.supply.settle = (if t.supply.state = .sagPending then some 20 else none) ∧ t.supply.release = none
  cues : t.cues = [] ∧ t.stack.layers = []
  theme : t.base.theme = ⟨c.themeColour, c.themeLevel⟩
  base : if c.darkFade = 0 then t.base.current = t.base.theme ∧ t.base.transition = none
    else t.base.current = ⟨c.themeColour, 0⟩ ∧
      t.base.transition = some ⟨⟨c.themeColour, 0⟩, t.base.theme, c.darkFade.toNat, 0, 10⟩
  ports : ∀ p : Fin 4, if c.ports[p].type = .off then t.ports[p].state = .off
    else t.ports[p].state = .idle ∧ t.ports[p].forced = true ∧ t.ports[p].shift = none ∧
      t.ports[p].slot = none ∧ t.ports[p].lastSent = none ∧ t.ports[p].refreshDeadline = none ∧
      t.ports[p].failureRun = 0 ∧ t.ports[p].sendCount = 0 ∧ t.ports[p].probeDeadline = none ∧
      t.ports[p].frameDeadline = some (BitVec.ofNat 32 c.ports[p].framePeriod)
  notices : t.status.notices = (if deepAt c v then Notice.supplyDeep.bit else 0) ∧
    t.status.groupNew = ⟨false, false, deepAt c v⟩

end Sys2Proof.Machine
end

