-- ==== Sys2Proof/Certificates/Slice0/Obligations.lean ====
section
/-! DEFINITION. The statements for the provers. -/

open Sys2Proof Sys2Proof.Machine

/-! ## The queue of commands, and every command -/

/-- A step takes the command at the front of the queue and is its effect on the state with the queue's rest; an empty
queue idles (the model's choice, log entry 7). -/
def Obligations.StepTakesTheFrontCommand : Prop :=
  ∀ s : State,
    (∀ c rest, s.pending = c :: rest → step s = exec c { s with pending := rest }) ∧
    (s.pending = [] → step s = .next s)

/-- Every command goes on to a next state and leaves the queue alone: the node has no fault (log entry 1). -/
def Obligations.EveryCommandGoesOnAndLeavesTheQueue : Prop :=
  ∀ c s, ∃ t, exec c s = .next t ∧ t.pending = s.pending

/-! ## Invariants -/

/-- The state after reset meets every invariant below. -/
def Obligations.ResetIsSound : Prop :=
  BusSound State.reset ∧ QueueSound State.reset ∧ RosterSound State.reset ∧ LevelSound State.reset ∧
    SupplySound State.reset ∧ CueSound State.reset ∧ DrainSound State.reset ∧ PortsSound State.reset ∧
    ConfigSound State.reset

/-- Every step keeps the bus port sound (R15 to R22). -/
def Obligations.StepKeepsTheBusSound : Prop :=
  ∀ s t, BusSound s → step s = .next t → BusSound t

/-- Every step keeps the outgoing queue sound (R54 to R58, R67, R68). -/
def Obligations.StepKeepsTheQueueSound : Prop :=
  ∀ s t, QueueSound s → step s = .next t → QueueSound t

/-- Every step keeps the intake and the roster sound (R49 to R53, R69, R72, R74, R75); what it says of the inbox of
accepted roster frames is of the model's own field (log entry 8). -/
def Obligations.StepKeepsTheRosterSound : Prop :=
  ∀ s t, RosterSound s → step s = .next t → RosterSound t

/-- Every step keeps the level unit and the supply monitor sound (R77 to R82, R87, R88). -/
def Obligations.StepKeepsLevelAndSupplySound : Prop :=
  ∀ s t, LevelSound s ∧ SupplySound s → step s = .next t → LevelSound t ∧ SupplySound t

/-- Every step keeps the cue list and the layer stack sound (R95 to R100, R123 to R129, R145); that a sub-count may
stand at its unit until the layer's advance is the model's choice (log entry 4). -/
def Obligations.StepKeepsTheCuesSound : Prop :=
  ∀ s t, CueSound s → step s = .next t → CueSound t

/-- Every step keeps the drain and the base sound (R149, R151, R181 to R184); that the base stays dark past the dark
order rests on log entry 16, and that what ends a phase does not hold already, on where the model tests for it (log
entry 26). -/
def Obligations.StepKeepsTheDrainSound : Prop :=
  ∀ s t, DrainSound s → step s = .next t → DrainSound t

/-- Every step keeps the ports sound (R163, R164, R167 to R171, R173, R174); that a DARK port is never in its echo wait
rests on log entry 12, and the fields activity, shift and reportedDark are the model's (log entry 11). -/
def Obligations.StepKeepsThePortsSound : Prop :=
  ∀ s t, PortsSound s → step s = .next t → PortsSound t

/-- Every step keeps the configuration legal once a record is in use (R146, R161, R178). -/
def Obligations.StepKeepsTheConfigurationLegal : Prop :=
  ∀ s t, ConfigSound s → step s = .next t → ConfigSound t

/-! ## Start-up -/

/-- A power-on start gives every block its power-on values and holds every S pin low, in any state
(R22, R84, R93, R153, R174, R176, R191). -/
def Obligations.PowerOnStartValues : Prop :=
  ∀ cause s, ∃ t, exec (.powerOnStart cause) s = .next t ∧
    t.nodeState = .starting (if cause = .resetAsserted then .resetHeld else .reading 0) ∧
    t.bus.inAttempt = false ∧ t.bus.standing = .speaking ∧ t.bus.voidRun = 0 ∧ t.bus.faultRun = 0 ∧
    t.bus.cleanRun = 0 ∧ t.bus.muted = false ∧ t.bus.quietDeadline = none ∧ t.bus.expiryMark = false ∧
    t.out.entries = [] ∧ t.intake.fifo = [] ∧ t.intake.slot = none ∧ t.cues = [] ∧ t.stack.layers = [] ∧
    (∀ i : Fin 31, t.roster.entries[i] = none) ∧ t.roster.presenceTimer = none ∧ t.roster.completionStamp = none ∧
    t.level.k = 255 ∧ t.level.d = 0 ∧ t.level.a = 0 ∧ t.level.slewDeadline = none ∧ t.level.ramp = none ∧
    t.supply.state = .normal ∧ t.supply.ownCap = 255 ∧ t.supply.settle = none ∧ t.supply.release = none ∧
    t.base.current = ⟨⟨0, 0, 0⟩, 0⟩ ∧ t.base.theme = ⟨⟨0, 0, 0⟩, 0⟩ ∧ t.base.transition = none ∧
    t.drainDeadline = none ∧
    (∀ p : Fin 4, t.ports[p].state = .dark ∧ t.ports[p].activity = .none ∧ t.ports[p].shift = none ∧
      t.ports[p].slot = none ∧ t.ports[p].lastSent = none ∧ t.ports[p].refreshDeadline = none ∧
      t.ports[p].frameDeadline = none ∧ t.ports[p].probeDeadline = none ∧ t.ports[p].echoTimeout = none ∧ t.ports[p].failureRun = 0 ∧
      t.ports[p].sendCount = 0) ∧
    (∀ k : Fin 12, t.pwm[k] = 0) ∧ (∀ pin : Pin, t.pin pin = .low) ∧
    t.status.notices = 0 ∧ t.status.groupNew = ⟨false, false, false⟩ ∧
    t.pending = s.pending

/-- The read of the record: its start at the release of RESET_N, a failure, a retry, and a record refused, by its check
or by its fields (R176 to R179). Each field lies at the bytes and bits of the table of section 11.2, and a record is
legal exactly when its spare bits and bytes are 0 and its zone, presence interval, σ, ports, segments and routes are as
R178 lists them. -/
def Obligations.ConfigurationReads : Prop :=
  (∀ (s : State) (n : Nat) (byte0 : Byte) (r : List Byte) (v : Millivolts),
    (s.nodeState = .starting .resetHeld → exec .resetRelease s = .next { s with nodeState := .starting (.reading 0) }) ∧
    (s.nodeState = .starting (.reading n) → byte0 ≠ 0x4C →
      exec (.configReadFailure byte0) s =
        .next { s with nodeState := if n + 1 < 3 then .starting (.waiting (n + 1)) else .halted }) ∧
    (s.nodeState = .starting (.waiting n) →
      exec .configReadRetry s = .next { s with nodeState := .starting (.reading n) }) ∧
    (s.nodeState = .starting (.reading n) → r.length = 96 → r.head? = some 0x4C →
      crcBytes (r.take 94) ≠ r.getD 94 0 ++ r.getD 95 0 ∨ recordLegal r = false →
      exec (.configReadDone r v) s = .next { s with nodeState := .halted })) ∧
  (∀ r : List Byte,
    let byte : Nat → Byte := fun i => r.getD i 0
    let bit : Nat → Nat → Bool := fun i k => (byte i).getLsbD k
    let c := configOf r
    let segmentCount := ((byte 21).extractLsb' 0 3).toNat
    let count : Nat → Nat := fun k => ((byte (34 + 4 * k)).extractLsb' 0 2).toNat
    let first : Nat → ZoneNo := fun k => (byte (35 + 4 * k)).extractLsb' 0 5
    let second : Nat → ZoneNo := fun k => (byte (36 + 4 * k)).extractLsb' 0 5
    c.zone = (byte 1).extractLsb' 0 5 ∧ c.recovery = (if bit 2 5 then .peer else .auto) ∧
    c.policy = (if bit 2 4 then .refuseNew else .replaceOldest) ∧ c.vtSelection = (byte 2).extractLsb' 0 3 ∧
    c.presenceCount = (byte 3).toNat ∧ c.sagCap = byte 4 ∧ c.floor = byte 5 ∧ c.slew = byte 6 ∧
    c.themeColour = ⟨byte 7, byte 8, byte 9⟩ ∧ c.themeLevel = byte 10 ∧ c.defaultDimmer = byte 11 ∧
    c.darkFade = byte 12 ∧
    (∀ k : Fin 4, c.ports[k] =
      { type := [.off, .stream, .confirmed, .pwm].getD ((byte (13 + 2 * k)).extractLsb' 6 2).toNat .off
        slow := bit (13 + 2 * k) 5
        framePeriod := [5, 10, 20, 30].getD ((byte (13 + 2 * k)).extractLsb' 2 2).toNat 0
        refreshInterval := [50, 100, 150, 200].getD ((byte (13 + 2 * k)).extractLsb' 0 2).toNat 0
        pixels := (byte (14 + 2 * k)).toNat }) ∧
    c.segments = (List.range segmentCount).map (fun m =>
      { port := ((byte (22 + 3 * m)).extractLsb' 6 2).toFin
        first := (byte (23 + 3 * m)).toNat
        count := (byte (24 + 3 * m)).toNat
        reversed := bit (22 + 3 * m) 5 }) ∧
    (∀ k : Fin 8, c.routes[k] =
      { member := bit (34 + 4 * k) 7
        join := if bit (34 + 4 * k) 6 then .both else .first
        sendsHandoff := bit (34 + 4 * k) 5
        reverse := bit (34 + 4 * k) 4
        predecessors :=
          if count k = 0 then [] else if count k = 1 ∨ first k = second k then [first k] else [first k, second k]
        fallback := byte (37 + 4 * k) }) ∧
    (recordLegal r = true ↔
      (byte 1 &&& 0xE0 = 0 ∧ byte 2 &&& 0xC8 = 0 ∧ byte 21 &&& 0xF8 = 0 ∧
        (∀ k < 4, byte (13 + 2 * k) &&& 0x10 = 0 ∧ byte (22 + 3 * k) &&& 0x1F = 0) ∧
        (∀ k < 8, byte (34 + 4 * k) &&& 0x0C = 0 ∧ byte (35 + 4 * k) &&& 0xE0 = 0 ∧ byte (36 + 4 * k) &&& 0xE0 = 0) ∧
        ∀ i, 66 ≤ i → i ≤ 93 → byte i = 0) ∧
      (c.zone ≠ 31 ∧ 2 ≤ c.presenceCount ∧ c.presenceCount ≤ 40 ∧ c.slew ≠ 0) ∧
      (∀ k : Fin 4,
        let p := c.ports[k]
        (p.type = .off → p.pixels = 0 ∧ byte (13 + 2 * k) = 0) ∧
        (p.type = .stream → 1 ≤ p.pixels ∧ p.pixels ≤ 120) ∧
        (p.type = .confirmed → 2 ≤ k.val ∧ 1 ≤ p.pixels ∧ p.pixels ≤ 128) ∧
        (p.type = .pwm → k.val = 3 ∧ 1 ≤ p.pixels ∧ p.pixels ≤ 4) ∧ (p.type ≠ .stream → p.slow = false)) ∧
      c.ports[0].pixels + c.ports[1].pixels + c.ports[2].pixels + c.ports[3].pixels ≤ 256 ∧
      (1 ≤ segmentCount ∧ segmentCount ≤ 4 ∧
        (∀ g ∈ c.segments, c.ports[g.port].type ≠ .off ∧ 1 ≤ g.count ∧ g.first + g.count ≤ c.ports[g.port].pixels) ∧
        (c.segments.Pairwise fun g h => g.port = h.port →
          ∀ k, ¬(g.first ≤ k ∧ k < g.first + g.count ∧ h.first ≤ k ∧ k < h.first + h.count)) ∧
        ∀ m, segmentCount ≤ m → m < 4 → byte (22 + 3 * m) = 0 ∧ byte (23 + 3 * m) = 0 ∧ byte (24 + 3 * m) = 0) ∧
      ∀ k < 8, count k ≤ 2 ∧ (1 ≤ count k → first k ≠ 31 ∧ first k ≠ c.zone) ∧
        (count k = 2 → second k ≠ 31 ∧ second k ≠ c.zone) ∧ (count k = 0 → byte (35 + 4 * k) = 0) ∧
        (count k ≤ 1 → byte (36 + 4 * k) = 0)))

/-- A good record, and the end of WAKING, bring the node to ACTIVE with the values of R180. -/
def Obligations.EntryToActive : Prop :=
  ∀ (s : State) (n : Nat) (r : List Byte) (v : Millivolts),
    (s.nodeState = .starting (.reading n) → r.length = 96 → r.head? = some 0x4C →
      crcBytes (r.take 94) = r.getD 94 0 ++ r.getD 95 0 → recordLegal r = true →
      ∃ t, exec (.configReadDone r v) s = .next t ∧ EnteredActive (configOf r) v t ∧ t.pending = s.pending) ∧
    (s.nodeState = .waking →
      ∃ t, exec (.wakingEnd v) s = .next t ∧ EnteredActive s.config v t ∧ t.pending = s.pending)

/-! ## The line -/

/-- A falling edge: it wakes an ASLEEP node whatever it begins (R186, R27), begins a frame on an idle line, restarts the
idle count as noise outside a frame on a line that is not idle (R4), sets back the measure of a SILENT node (R18), and
has no effect in a node that is starting, halted or waking (R22). The line is idle at 12 µs of recessive time, counted
from 4 µs after the falling edge of a frame's last bit, or from the last rising edge where no frame was being received;
within a frame only past a pulse that reaches the cut time, where the frame is then left (log entry 29). That a
START_BIT or LINE_NOISE command wakes an ASLEEP node as WAKING_EDGE does is the model's reading (log entry 13). That a
START_BIT on a line that is not idle, and a LINE_NOISE on an idle line or within a frame, leave the state unchanged is
the model's choice for a command whose event cannot happen there (log entry 1). -/
def Obligations.EdgesOnTheLine : Prop :=
  ∀ (s : State) (g : Gap),
    let idle : Prop :=
      (match s.bus.line with
        | .outside .bitEnd _ => max 4000 g.width + 12000 ≤ g.since
        | .outside .rise _ => g.width + 12000 ≤ g.since
        | .receiving | .stopped => 6000 ≤ g.width ∧ g.width + 12000 ≤ g.since
        | .unwatched | .sending _ => False)
    let measured : Result := .next { s with bus := { s.bus with recessiveCount := 0, line := .outside .rise 0 } }
    (s.nodeState = .asleep →
      exec .wakingEdge s = .next { s with nodeState := .waking } ∧
      exec (.startBit g) s = .next { s with nodeState := .waking } ∧
      exec (.lineNoise g) s = .next { s with nodeState := .waking }) ∧
    (s.running = false → s.nodeState ≠ .asleep →
      exec .wakingEdge s = .next s ∧ exec (.startBit g) s = .next s ∧ exec (.lineNoise g) s = .next s) ∧
    (s.running = true → s.bus.standing = .silent →
      (g.width + 12000 ≤ g.since → exec (.startBit g) s = measured) ∧
      (g.width ≤ g.since → g.since < max 4000 g.width + 12000 → exec (.lineNoise g) s = measured)) ∧
    (s.running = true → s.bus.standing ≠ .silent →
      (idle → exec (.startBit g) s = .next { s with bus := { s.bus with line := .receiving } } ∧
        exec (.lineNoise g) s = .next s) ∧
      (¬idle → exec (.startBit g) s = .next s) ∧
      (∀ from_ i, s.bus.line = .outside from_ i → ¬idle → g.width ≤ g.since →
        exec (.lineNoise g) s = .next { s with bus := { s.bus with line := .outside .rise 0 } }) ∧
      ((∀ from_ i, s.bus.line ≠ .outside from_ i) → exec (.lineNoise g) s = .next s))

/-! ## Frames the node sends -/

/-- The header of a frame the node sends is urgency × 1024 + kind × 32 + own zone, with the values of the table of
R23; a CAP of any zone lies below a HANDOFF of any zone, a STATUS of any below a PRESENCE of any, and of one kind the
lower zone lies lower; and the urgency of a received frame has no effect on its acceptance. -/
def Obligations.HeadersOfSentFrames : Prop :=
  (∀ (k : SendKind) (z : ZoneNo),
    (sendHeader k z).extractLsb' 0 5 = z ∧
    ((sendHeader k z).extractLsb' 10 2, (sendHeader k z).extractLsb' 5 5) =
      (match k with
        | .cap => (0#2, 0x0B#5)
        | .handoff => (1#2, 0x04#5)
        | .status => (3#2, 0x09#5)
        | .presence => (3#2, 0x0A#5)) ∧
    (sendHeader k z).toNat =
      (match k with
        | .cap => 352
        | .handoff => 1152
        | .status => 3360
        | .presence => 3392) + z.toNat) ∧
  (∀ z z' : ZoneNo, (sendHeader .cap z).toNat < (sendHeader .handoff z').toNat ∧
    (sendHeader .handoff z).toNat < (sendHeader .status z').toNat ∧
    (sendHeader .status z).toNat < (sendHeader .presence z').toNat) ∧
  (∀ (k : SendKind) (z z' : ZoneNo), z.toNat < z'.toNat → (sendHeader k z).toNat < (sendHeader k z').toNat) ∧
  (∀ (s : State) (h h' : BitVec 12) (b : List Byte), h.extractLsb' 0 10 = h'.extractLsb' 0 10 →
    s.handOn h b = s.handOn h' b)

/-- The CRC starts at 0xFFFF and takes the bits in the order they are sent, each byte most significant bit first: a bit
shifts the register left and, where it differs from the bit shifted out, adds the polynomial 0x1021; nothing is inverted
at the end. A frame goes out as its start bit 0, header, length, body and the CRC over header, length and body, each
most significant bit first. A frame of any header and any body of up to 14 bytes, seen on a clean line bit by bit, is
complete at its void slot, has no fault, and gives back its header, its length and its body; it lasts 37 + 8n bit times
with its void slot and end gap (R5, R6, R9). -/
def Obligations.SentFramesAreReceivedWhole : Prop :=
  (∀ (reg : BitVec 16) (bit : Bool),
    crcStep reg bit = (reg <<< 1) ^^^ (if reg.getMsbD 0 = bit then 0x0000#16 else 0x1021#16)) ∧
  crcBits [] = 0xFFFF#16 ∧ (∀ (bits : List Bool) (bit : Bool), crcBits (bits ++ [bit]) = crcStep (crcBits bits) bit) ∧
  (∀ bytes : List Byte,
    crcBytes bytes = crcBits (bytes.flatMap fun x => (List.range 8).map fun i => x.getLsbD (7 - i))) ∧
  (∀ (h : BitVec 12) (b : List Byte),
    let checked := (List.range 12).map (fun i => h.getLsbD (11 - i)) ++
      (List.range 4).map (fun i => (BitVec.ofNat 4 b.length).getLsbD (3 - i)) ++
      b.flatMap (fun x => (List.range 8).map fun i => x.getLsbD (7 - i))
    (Frame.make h b).bits = false :: (checked ++ (List.range 16).map fun i => (crcBits checked).getLsbD (15 - i))) ∧
  ∀ (h : BitVec 12) (b : List Byte), b.length ≤ 14 →
    let bits := cleanLine (Frame.make h b).bits
    rxComplete bits = true ∧ rxFaulty bits = false ∧ rxHeader bits = h ∧ rxLength bits = b.length ∧ rxBody bits = b ∧
      bits.length + 1 + 3 = 37 + 8 * b.length

/-- The bodies of the four kinds the node sends, field by field (R36 to R39 and section 2.5). -/
def Obligations.BodiesOfSentFrames : Prop :=
  ∀ (s : State) (e : SendEntry),
    (e.kind = .cap → s.bodyOf e = [s.supply.ownCap]) ∧
    (∀ w, e.kind = .handoff → e.wave = some w →
      s.bodyOf e = [w.key.origin.setWidth 8, w.key.tag, w.route.setWidth 8]) ∧
    (e.kind = .presence → s.cues.length ≤ 8 → s.stack.layers.length ≤ 6 →
      ∃ counts groups : Byte, s.bodyOf e = [0, s.supply.ownCap, counts, groups] ∧
        (counts.extractLsb' 4 4).toNat = s.cues.length ∧ (counts.extractLsb' 0 4).toNat = s.stack.layers.length ∧
        groups.getLsbD 0 = s.status.groupNew.cue ∧ groups.getLsbD 1 = s.status.groupNew.bus ∧
        groups.getLsbD 2 = s.status.groupNew.output ∧
        groups.getLsbD 3 = (List.range 6).any (fun k => s.status.notices.getLsbD k) ∧
        groups.getLsbD 4 = (List.range 6).any (fun k => s.status.notices.getLsbD (6 + k)) ∧
        groups.getLsbD 5 = (List.range 4).any (fun k => s.status.notices.getLsbD (12 + k)) ∧
        groups.getLsbD 6 = false ∧ groups.getLsbD 7 = false) ∧
    (e.kind = .status → s.running = true → s.cues.length ≤ 8 → s.stack.layers.length ≤ 6 →
      ∃ condition ports : Byte,
        s.bodyOf e = [if s.isDraining then 3 else 2, condition, BitVec.ofNat 8 s.cues.length,
          BitVec.ofNat 8 s.stack.layers.length, s.supply.ownCap, s.level.k, s.level.d, s.level.a, ports,
          s.status.notices.extractLsb' 8 8, s.status.notices.extractLsb' 0 8] ∧
        condition.extractLsb' 6 2 =
          (match s.bus.standing with
            | .speaking => 0#2
            | .listenOnly => 1#2
            | .silent => 2#2) ∧
        condition.getLsbD 5 = s.bus.muted ∧ condition.extractLsb' 3 2 = 0 ∧
        condition.extractLsb' 0 3 =
          (match s.supply.state with
            | .normal => 0#3
            | .sagPending => 1#3
            | .sag => 2#3
            | .recoverPending => 3#3
            | .deep => 4#3) ∧
        ∀ p : Fin 4, ports.extractLsb' (2 * p.val) 2 =
          (match s.ports[p].state with
            | .off => 0#2
            | .idle | .shifting | .awaitEcho => 1#2
            | .faulted => 2#2
            | .dark => 3#2))

/-! ## Attempts -/

/-- An attempt starts on the idle line with the head of the queue, whose frame and clear marks are fixed then; with any
of the conditions of R21 missing, nothing starts (R4, R21, R62, R188). When the line is idle is as EdgesOnTheLine has it
(a frame left past a long pulse by log entry 29). -/
def Obligations.AttemptStarts : Prop :=
  ∀ (s : State) (g : Gap),
    let idle : Prop :=
      (match s.bus.line with
        | .outside .bitEnd _ => max 4000 g.width + 12000 ≤ g.since
        | .outside .rise _ => g.width + 12000 ≤ g.since
        | .receiving | .stopped => 6000 ≤ g.width ∧ g.width + 12000 ≤ g.since
        | .unwatched | .sending _ => False)
    (∀ head rest, s.running = true → s.bus.standing = .speaking → idle → s.out.entries = head :: rest →
      exec (.attemptStart g) s =
        .next { s with
          out := { s.out with entries :=
            { head with
              inFlight := true
              clearMarks := if head.kind = .presence then s.status.groupNew else ⟨false, false, false⟩ } :: rest }
          bus := { s.bus with line := .sending (Frame.make head.header (s.bodyOf head)) } }) ∧
    (s.running = false ∨ s.bus.standing ≠ .speaking ∨ ¬idle ∨ s.out.entries = [] →
      exec (.attemptStart g) s = .next s)

/-- A SENT attempt: the void run is 0, and the entry leaves, or stays renewed if its renew mark is set and it is not
withdrawn; a PRESENCE clears the group-new flags that still hold their marks and is stamped (R13, R63, R66, R76,
R188). The outcome and the end of the attempt are one command (log entry 9). -/
def Obligations.AttemptSentSettles : Prop :=
  ∀ (s : State) (f : Frame) (e : SendEntry) (pre post : List SendEntry),
    s.running = true → s.bus.line = .sending f → s.out.entries = pre ++ e :: post → e.inFlight = true →
    (∀ x ∈ pre ++ post, x.inFlight = false) →
    exec .attemptSent s =
      .next { s with
        bus := { s.bus with voidRun := 0, line := .outside .bitEnd 0 }
        out := { s.out with entries :=
          pre ++
            (if e.withdrawn = false ∧ e.renew = true then
              [{ e with
                inFlight := false
                renew := false
                clearMarks := ⟨false, false, false⟩
                budget := if e.kind = .cap ∨ e.kind = .handoff then 3 else 1 }]
            else []) ++ post }
        status := if e.kind = .presence then
            { s.status with groupNew :=
              ⟨s.status.groupNew.cue && !e.clearMarks.cue, s.status.groupNew.bus && !e.clearMarks.bus,
                s.status.groupNew.output && !e.clearMarks.output⟩ }
          else s.status
        roster := if e.kind = .presence then { s.roster with completionStamp := some s.showClock } else s.roster }

/-- A VOIDED attempt costs the entry one of its budget: it stays, stays renewed, leaves withdrawn, or is dropped with
SEND_DROPPED; the void run counts it, and at 8 the node goes to LISTEN_ONLY with the queue discarded and the quiet
period of 200 ms begun. A readback fault raises BIT_FAULT and is settled in the same way: an edge outside its window, a
pulse that is a bit fault, and, on a bit that is no loss, a wrong sample; a loss at the mid-bit sample comes before the
end of a longer pulse (R7, R8, R13, R15, R16, R64, R66, R67; log entry 19); the rest of the frame is then followed to
its end and not received (R8, R11; log entry 30). The outcome and the end of the attempt are one command (log entry
9). -/
def Obligations.AttemptVoidedSettles : Prop :=
  (∀ (s : State) (f : Frame) (e : SendEntry) (pre post : List SendEntry),
    s.running = true → s.bus.line = .sending f → s.out.entries = pre ++ e :: post → e.inFlight = true →
    (∀ x ∈ pre ++ post, x.inFlight = false) →
    let rested := { e with inFlight := false, renew := false, clearMarks := ⟨false, false, false⟩ }
    let kept : List SendEntry :=
      if e.withdrawn = true then []
      else if 1 < e.budget then [{ rested with budget := e.budget - 1 }]
      else if e.renew = true then [{ rested with budget := if e.kind = .cap ∨ e.kind = .handoff then 3 else 1 }]
      else []
    let u := { s with
      out := { s.out with entries := pre ++ kept ++ post }
      bus := { s.bus with line := .outside .bitEnd 0 } }
    let u := if e.withdrawn = false ∧ e.budget ≤ 1 ∧ e.renew = false then u.raise .sendDropped else u
    (s.bus.voidRun + 1 < 8 →
      exec .attemptVoided s = .next { u with bus := { u.bus with voidRun := s.bus.voidRun + 1 } }) ∧
    (s.bus.voidRun + 1 = 8 →
      let t := { u with
        bus := { u.bus with
          voidRun := 0
          standing := .listenOnly
          quietDeadline := some (s.showClock + 200)
          expiryMark := false }
        out := { u.out with entries := [] } }.raise .listenOnlyEntered
      exec .attemptVoided s = .next (if pre ++ kept ++ post = [] then t else t.raise .sendDropped))) ∧
  (∀ (s : State) (f : Frame) (position : Nat) (bit : LineBit) (sent : Bool),
    s.running = true → s.bus.line = .sending f → f.bits[position]? = some sent →
    let lost := 1 ≤ position ∧ position ≤ 12 ∧ sent = true ∧ bit.sample = false
    let badPulse := ¬((500 ≤ bit.width ∧ bit.width ≤ 1500) ∨ (2500 ≤ bit.width ∧ bit.width ≤ 3500)) ∧ bit.width ≤ 32000
    (0 < position ∧ ¬(3500 ≤ bit.spacing ∧ bit.spacing ≤ 4500)) ∨ (badPulse ∧ bit.width < 2000) ∨
      (¬lost ∧ (bit.sample ≠ sent ∨ badPulse)) →
    ∃ t, exec .attemptVoided (s.raise .bitFault) = .next t ∧
      exec (.readbackFault position bit) s = .next { t with bus := { t.bus with line := .stopped } })

/-- A LOST attempt: the entry stays with its budget, its renew and clear marks dropped, or leaves if withdrawn; the void
run is left alone and the port goes on as a receiver (R7, R13, R65, R66, R188). -/
def Obligations.ContentionLostSettles : Prop :=
  ∀ (s : State) (f : Frame) (k : Fin 12) (e : SendEntry) (pre post : List SendEntry),
    s.running = true → s.bus.line = .sending f → f.header.getMsbD k = true →
    s.out.entries = pre ++ e :: post → e.inFlight = true → (∀ x ∈ pre ++ post, x.inFlight = false) →
    exec (.contentionLost k) s =
      .next { s with
        bus := { s.bus with line := .receiving }
        out := { s.out with entries :=
          pre ++
            (if e.withdrawn = true then []
              else [{ e with inFlight := false, renew := false, clearMarks := ⟨false, false, false⟩ }]) ++ post } }

/-! ## The standing -/

/-- A line dominant for more than 32 µs: SILENT, LINE_STUCK, the queue discarded, the quiet period cancelled, and an
attempt in flight ended VOIDED first without counting in the void run (R17, R64, R67). A line then recessive for
256 µs: LISTEN_ONLY with a fresh quiet period and no notice (R18). -/
def Obligations.LineStuckAndRecovery : Prop :=
  (∀ (s : State) (d : Nanos), s.running = true → 32000 < d → (∀ f, s.bus.line ≠ .sending f) →
    let t := { s with
      bus := { s.bus with
        standing := .silent
        quietDeadline := none
        expiryMark := false
        recessiveCount := 0
        line := .outside .rise 0 }
      out := { s.out with entries := [] } }.raise .lineStuck
    exec (.lineStuckCondition d) s = .next (if s.out.entries = [] then t else t.raise .sendDropped)) ∧
  (∀ (s : State) (d : Nanos) (f : Frame) (e : SendEntry) (pre post : List SendEntry),
    s.running = true → 32000 < d → s.bus.line = .sending f → s.out.entries = pre ++ e :: post → e.inFlight = true →
    (∀ x ∈ pre ++ post, x.inFlight = false) →
    let t := { s with
      bus := { s.bus with
        standing := .silent
        quietDeadline := none
        expiryMark := false
        recessiveCount := 0
        line := .outside .rise 0 }
      out := { s.out with entries := [] } }.raise .lineStuck
    exec (.lineStuckCondition d) s =
      .next (if pre ++ post ≠ [] ∨ e.withdrawn = false then t.raise .sendDropped else t)) ∧
  (∀ (s : State) (r : Nanos), s.running = true → s.bus.standing = .silent → 256000 ≤ r →
    exec (.silentRecovery r) s =
      .next { s with bus := { s.bus with
        standing := .listenOnly
        quietDeadline := some (s.showClock + 200)
        expiryMark := false
        recessiveCount := r
        line := .outside .rise r } })

/-- The quiet period's expiry: SPEAKING with a PRESENCE requested in AUTO, the expiry mark in PEER (R16). -/
def Obligations.QuietPeriodExpires : Prop :=
  ∀ (s : State) (d : Clock), s.running = true → s.bus.standing = .listenOnly → s.bus.quietDeadline = some d →
    reached s.showClock d = true →
    (s.config.recovery = .auto →
      exec .quietPeriodExpiry s =
        .next ({ s with bus := { s.bus with
          standing := .speaking, quietDeadline := none, expiryMark := false } }.request ⟨.presence, none⟩)) ∧
    (s.config.recovery = .peer →
      exec .quietPeriodExpiry s =
        .next { s with bus := { s.bus with quietDeadline := none, expiryMark := true } })

/-! ## Frames the node receives -/

/-- A received frame ends at its void slot, or at the void pulse that stands for it: a receiver that found a fault
stretches or drives the pulse unless its vote is muted, and the runs count the frame. The runs mute the vote at 16
faulty frames with VOTE_MUTED, and unmute it at 16 clean ones; a fragment is neither voted on nor counted (R9 to R12,
R19, R20). At a sender that a readback fault stopped, the end of its frame does none of this (R8, R11; log entry 30).
The last vote is the model's own output (log entry 22). A receiver finds a fault in a pulse outside 0.5 to 1.5 µs and
2.5 to 3.5 µs, in an edge outside 3.5 to 4.5 µs, in a length of 15 and in a check mismatch, and in nothing else. Its
bits come one after the other, an edge no later than 6 µs after the last, or past a pulse that lasts until then and
before the line is idle, and each sample is the line 2 µs after its edge, whatever pulse stands there; the frame is
complete with 33 + 8n bits, and cut short where the line stays recessive until 6 µs after an edge (R2 to R6, R9, R17; an
edge at that very moment by log entry 27, a pulse that lasts past it by log entry 29, a sample as the line changes by
log entry 18). -/
def Obligations.VotesAndRuns : Prop :=
  (∀ bits : List LineBit,
    let samples := bits.map LineBit.sample
    let value : List Bool → Nat := fun bs => bs.foldl (fun n b => 2 * n + b.toNat) 0
    let length := value ((samples.drop 13).take 4)
    let stands : Prop → Prop := fun cut =>
      (∀ b ∈ bits, b.width ≤ 32000) ∧
      (∀ pre a b post, bits = pre ++ a :: b :: post →
        a.width < b.spacing ∧ (b.spacing ≤ 6000 ∨ (6000 ≤ a.width ∧ b.spacing < a.width + 12000))) ∧
      (∀ pre b mid post c, bits = pre ++ b :: (mid ++ post) → (b :: mid).getLast? = some c →
        let t := (mid.map LineBit.spacing).sum
        (t < 2000 → 2000 < t + c.width → b.sample = false) ∧
        (t + c.width < 2000 → ∀ d rest, post = d :: rest → 2000 < t + d.spacing → b.sample = true) ∧
        (t + c.width < 2000 → post = [] → cut → b.sample = true))
    (rxFaulty bits = true ↔
      (∃ b ∈ bits, ¬((500 ≤ b.width ∧ b.width ≤ 1500) ∨ (2500 ≤ b.width ∧ b.width ≤ 3500)) ∧ b.width ≤ 32000) ∨
      (∃ b ∈ bits.drop 1, ¬(3500 ≤ b.spacing ∧ b.spacing ≤ 4500)) ∨ length = 15 ∨
      crcBits ((samples.drop 1).take (16 + 8 * length)) ≠
        BitVec.ofNat 16 (value ((samples.drop (17 + 8 * length)).take 16))) ∧
    (rxComplete bits = true ↔ stands False ∧ bits.length = 33 + 8 * length) ∧
    (rxCut bits = true ↔
      stands True ∧ (∃ b, bits.getLast? = some b ∧ b.width ≤ 6000) ∧ bits.length ≤ 33 + 8 * length)) ∧
  (∀ (s : State) (bits : List LineBit), s.running = true → s.bus.standing ≠ .silent → s.bus.line = .receiving →
    (rxComplete bits = true →
      exec (.frameVoided bits) s = .next (s.endFrame .stretched (rxFaulty bits))) ∧
    (rxComplete bits = true → rxFaulty bits = true → s.bus.muted = true →
      exec (.frameDiscarded bits) s = .next (s.endFrame .quiet true)) ∧
    (rxCut bits = true → 17 ≤ bits.length →
      exec (.frameCutShort bits) s = .next (s.endFrame .voidPulse true)) ∧
    (rxCut bits = true → bits.length < 17 →
      exec (.frameCutShort bits) s = .next { s with bus := { s.bus with line := .outside .bitEnd 0 } })) ∧
  (∀ (s : State) (bits : List LineBit), s.running = true → s.bus.standing ≠ .silent → s.bus.line = .stopped →
    let ended : Result := .next { s with bus := { s.bus with line := .outside .bitEnd 0 } }
    (rxComplete bits = true → exec (.frameVoided bits) s = ended) ∧
    (rxComplete bits = true → rxFaulty bits = false → exec (.frameTaken bits) s = ended) ∧
    (rxComplete bits = true → rxFaulty bits = true → exec (.frameDiscarded bits) s = ended) ∧
    (rxCut bits = true → exec (.frameCutShort bits) s = ended)) ∧
  (∀ (s : State) (v : Vote),
    (s.bus.muted = false →
      s.endFrame v false = { s with bus := { s.bus with lastVote := .quiet, line := .outside .bitEnd 0, faultRun := 0 } } ∧
      (s.bus.faultRun < 15 → s.endFrame v true =
        { s with bus := { s.bus with lastVote := v, line := .outside .bitEnd 0, faultRun := s.bus.faultRun + 1 } }) ∧
      (s.bus.faultRun = 15 → s.endFrame v true =
        { s with bus := { s.bus with
          lastVote := v, line := .outside .bitEnd 0, faultRun := 0, cleanRun := 0, muted := true } }.raise .voteMuted)) ∧
    (s.bus.muted = true →
      s.endFrame v true = { s with bus := { s.bus with lastVote := .quiet, line := .outside .bitEnd 0, cleanRun := 0 } } ∧
      (s.bus.cleanRun < 15 → s.endFrame v false =
        { s with bus := { s.bus with lastVote := .quiet, line := .outside .bitEnd 0, cleanRun := s.bus.cleanRun + 1 } }) ∧
      (s.bus.cleanRun = 15 → s.endFrame v false =
        { s with bus := { s.bus with lastVote := .quiet, line := .outside .bitEnd 0, cleanRun := 0, muted := false } })))

/-- A clean frame whose void slot read 1 is taken: TWIN_ZONE for the own zone as origin, the refresh of the origin's
entry if it is PRESENT, then the acceptance checks, and the runs count a clean frame; a node that does not receive
(SILENT, or neither ACTIVE nor DRAINING) takes nothing (R12, R14, R18, R40). -/
def Obligations.FramesTaken : Prop :=
  (∀ (s : State) (bits : List LineBit), s.running = true → s.bus.standing ≠ .silent → s.bus.line = .receiving →
    rxComplete bits = true → rxFaulty bits = false →
    let origin := (rxHeader bits).extractLsb' 0 5
    let twin := if origin = s.config.zone then s.raise .twinZone else s
    let heard (p : Peer) : Peer :=
      { p with
        lastHeard := s.showClock
        absence := s.showClock + BitVec.ofNat 32 (3 * (50 * s.config.presenceCount)) }
    let entries : Vector (Option Peer) 31 := Vector.ofFn fun i : Fin 31 =>
      if i.val = origin.toNat then s.roster.entries[i].map heard else s.roster.entries[i]
    let refreshed := { twin with roster := { s.roster with entries := entries } }
    exec (.frameTaken bits) s = .next ((refreshed.accept (rxHeader bits) (rxBody bits)).endFrame .quiet false)) ∧
  (∀ (s : State) (bits : List LineBit), s.running = false ∨ s.bus.standing = .silent →
    exec (.frameTaken bits) s = .next s)

/-- The acceptance checks in their order: a CALL in DRAINING is refused without notice, a foreign kind or an origin of
31 is ignored, a wrong length and an illegal field refuse with BAD_BODY, a frame for another route or zone is ignored,
and what is left is delivered (R24, R41 to R46). -/
def Obligations.AcceptanceChecksInOrder : Prop :=
  ∀ (s : State) (header : BitVec 12) (body : List Byte),
    let kind := (header.extractLsb' 5 5).toNat
    let origin : ZoneNo := header.extractLsb' 0 5
    let byte : Nat → Byte := fun i => body.getD i 0
    let length : Nat := [0, 0, 14, 4, 3, 5, 2, 1, 1, 11, 4, 1, 3].getD kind 0
    let foreign := kind = 0 ∨ 12 < kind ∨ origin = 31
    let illegal :=
      (kind = 2 ∧ (byte 0 = 0 ∨ 5 ≤ ((byte 1).extractLsb' 2 3).toNat ∨ (byte 9 = 0 ∧ byte 10 = 0) ∨
        byte 2 &&& 0x03 ≠ 0)) ∨
      (kind = 3 ∧ (byte 0 &&& 0xE0 ≠ 0 ∨ byte 2 &&& 0xFE ≠ 0)) ∨
      (kind = 4 ∧ (byte 0 &&& 0xE0 ≠ 0 ∨ byte 2 &&& 0xF8 ≠ 0)) ∨
      (kind = 7 ∧ byte 0 = 0) ∨
      (kind = 8 ∧ byte 0 &&& 0xE0 ≠ 0) ∨
      (kind = 12 ∧ byte 0 &&& 0xE0 ≠ 0) ∨
      (kind = 9 ∧ (byte 0 &&& 0xF8 ≠ 0 ∨ byte 1 &&& 0x18 ≠ 0)) ∨
      (kind = 10 ∧ (byte 0 &&& 0xFE ≠ 0 ∨ byte 3 &&& 0xC0 ≠ 0))
    let elsewhere :=
      (kind = 2 ∧ (s.config.route ((byte 1).extractLsb' 5 3)).member = false) ∨
      (kind = 4 ∧ ((s.config.route ((byte 2).extractLsb' 0 3)).member = false ∨
        origin ∉ (s.config.route ((byte 2).extractLsb' 0 3)).predecessors)) ∨
      ((kind = 8 ∨ kind = 12) ∧ (byte 0).extractLsb' 0 5 ≠ s.config.zone ∧ (byte 0).extractLsb' 0 5 ≠ 31#5)
    let draining := (∃ p, s.nodeState = .draining p) ∧ kind = 2
    (draining → s.accept header body = s) ∧
    (¬draining → foreign → s.accept header body = s) ∧
    (¬draining → ¬foreign → body.length ≠ length → s.accept header body = s.raise .badBody) ∧
    (¬draining → ¬foreign → body.length = length → illegal → s.accept header body = s.raise .badBody) ∧
    (¬draining → ¬foreign → body.length = length → ¬illegal → elsewhere → s.accept header body = s) ∧
    (¬draining → ¬foreign → body.length = length → ¬illegal → ¬elsewhere →
      ∃ k, FrameKind.ofValue (header.extractLsb' 5 5) = some k ∧
        s.accept header body = s.deliverFrame k origin body)

/-- Delivery: PRESENCE and CAP go to the roster, those of the own zone nowhere (the way there is the model's, log entry
8); every other frame joins the intake FIFO, is taken into an empty handling slot at once, or is discarded with
INTAKE_OVERRUN at a full FIFO. A handling lasts 400 µs, and its completion empties the slot, takes hold, and takes the
head of the FIFO (R47 to R50). -/
def Obligations.DeliveryAndHandling : Prop :=
  (∀ (s : State) (k : FrameKind) (origin : ZoneNo) (body : List Byte),
    (k = .presence ∨ k = .cap → origin = s.config.zone → s.deliverFrame k origin body = s) ∧
    (∀ i : Fin 31, i.val = origin.toNat → origin ≠ s.config.zone →
      s.deliverFrame .presence origin body =
        { s with intake := { s.intake with inbox := s.intake.inbox ++
          [.presence i (if (body.getD 0 0).getLsbD 0 then .other else .lighting) (body.getD 1 0)] } } ∧
      s.deliverFrame .cap origin body =
        { s with intake := { s.intake with inbox := s.intake.inbox ++ [.cap i (body.getD 0 0)] } }) ∧
    (∀ o, bodyOrder k body = some o →
      (s.intake.slot = none → s.intake.fifo = [] →
        s.deliverFrame k origin body =
          { s with intake := { s.intake with slot := some ⟨⟨origin, o⟩, ⟨s.showClock, 400⟩⟩ } }) ∧
      (s.intake.slot ≠ none → s.intake.fifo.length < 4 →
        s.deliverFrame k origin body =
          { s with intake := { s.intake with fifo := s.intake.fifo ++ [⟨origin, o⟩] } }) ∧
      (s.intake.fifo.length = 4 → s.deliverFrame k origin body = s.raise .intakeOverrun))) ∧
  (∀ (s : State) (effect : State → State),
    let t := effect { s with intake := { s.intake with slot := none } }
    t.intake = { s.intake with slot := none } →
    s.complete effect =
      (match s.intake.fifo with
        | [] => t
        | e :: rest => { t with intake := ⟨rest, some ⟨e, ⟨t.showClock, 400⟩⟩, s.intake.inbox⟩ }))

/-- The fields of each kind lie in its body as section 2.5 lays them out (R26 to R35, R39, R49). -/
def Obligations.FieldsOfOrders : Prop :=
  ∀ body : List Byte,
    let byte : Nat → Byte := fun i => body.getD i 0
    let word : Nat → BitVec 16 := fun i => BitVec.ofNat 16 (256 * (byte i).toNat + (byte (i + 1)).toNat)
    let colour : Nat → Colour := fun i => ⟨byte i, byte (i + 1), byte (i + 2)⟩
    bodyOrder .wake body = some .wake ∧
    (∀ e, Effect.ofField ((byte 1).extractLsb' 2 3) = some e →
      bodyOrder .call body = some (.call (byte 0) ((byte 1).extractLsb' 5 3)
        { effect := e
          loop := (byte 1).getLsbD 1
          long := (byte 1).getLsbD 0
          endAction := if (byte 2).getLsbD 7 then .drop else .keep
          blend :=
            (match ((byte 2).extractLsb' 5 2).toNat with
              | 0 => .replace
              | 1 => .add
              | 2 => .max
              | _ => .dim)
          priority := (byte 2).extractLsb' 2 3
          colourA := colour 3
          colourB := colour 6
          period := word 9
          width := byte 11
          handoffPoint := byte 13 } (byte 12))) ∧
    (∀ f : BitVec 3, Effect.ofField f =
      [some .hold, some .fade, some .sweep, some .breathe, some .chase, none, none, none].getD f.toNat none) ∧
    bodyOrder .cancel body = some (.cancel ((byte 0).extractLsb' 0 5) (byte 1)
      (if (byte 2).getLsbD 0 then .fadeOut else .stop) (byte 3)) ∧
    bodyOrder .handoff body = some (.handoff ((byte 0).extractLsb' 0 5) (byte 1) ((byte 2).extractLsb' 0 3)) ∧
    bodyOrder .theme body = some (.theme (colour 0) (byte 3) (byte 4)) ∧
    bodyOrder .dim body = some (.dim (byte 0) (byte 1)) ∧
    bodyOrder .sleep body = some (.sleep (byte 0)) ∧
    bodyOrder .query body = some (.query ((byte 0).extractLsb' 0 5)) ∧
    bodyOrder .status body = some (.status body) ∧
    bodyOrder .clear body = some (.clear ((byte 0).extractLsb' 0 5) (word 1)) ∧
    bodyOrder .presence body = none ∧ bodyOrder .cap body = none

/-! ## The outgoing queue -/

/-- A request outside ACTIVE and DRAINING, or outside SPEAKING, is not queued; one whose entry is queued is folded into
it, which marks it for renewal if it is in flight and no HANDOFF; one that finds room joins at the place its header
gives it (R54 to R58). -/
def Obligations.RequestsFoldOrJoin : Prop :=
  ∀ (s : State) (r : Request),
    (s.running = false ∨ s.bus.standing ≠ .speaking → s.request r = s) ∧
    (∀ (e : SendEntry) (pre post : List SendEntry), s.running = true → s.bus.standing = .speaking →
      s.out.entries = pre ++ e :: post → e.kind = r.kind → e.wave.map Wave.key = r.wave.map Wave.key →
      (∀ x ∈ pre ++ post, ¬(x.kind = r.kind ∧ x.wave.map Wave.key = r.wave.map Wave.key)) →
      s.request r = { s with out := { s.out with entries :=
        pre ++ (if e.inFlight = true ∧ r.kind ≠ .handoff then { e with renew := true } else e) :: post } }) ∧
    (∀ pre post : List SendEntry, s.running = true → s.bus.standing = .speaking → s.out.entries = pre ++ post →
      s.out.entries.length < 4 →
      (∀ x ∈ pre ++ post, ¬(x.kind = r.kind ∧ x.wave.map Wave.key = r.wave.map Wave.key)) →
      (∀ x ∈ pre, x.header.toNat ≤ (sendHeader r.kind s.config.zone).toNat) →
      (∀ x ∈ post, (sendHeader r.kind s.config.zone).toNat < x.header.toNat) →
      s.request r = { s with out :=
        { entries := pre ++
            { kind := r.kind
              header := sendHeader r.kind s.config.zone
              order := s.out.nextOrder
              budget := if r.kind = .cap ∨ r.kind = .handoff then 3 else 1
              wave := r.wave
              inFlight := false
              renew := false
              withdrawn := false
              clearMarks := ⟨false, false, false⟩ } :: post
          nextOrder := s.out.nextOrder + 1 } })

/-- A HANDOFF or CAP request that finds 4 entries and none to fold into evicts a STATUS not in flight, else a PRESENCE
not in flight, else, for a CAP, the latest HANDOFF not in flight, with SEND_DROPPED, and then joins; a HANDOFF that
finds none is refused with SEND_DROPPED, and a CAP always finds one (R59, R60). -/
def Obligations.FullQueueMakesRoom : Prop :=
  ∀ (s : State) (r : Request), QueueSound s → s.running = true → s.bus.standing = .speaking →
    s.out.entries.length = 4 → r.kind = .handoff ∨ r.kind = .cap → (r.wave.isSome = true ↔ r.kind = .handoff) →
    (∀ x ∈ s.out.entries, ¬(x.kind = r.kind ∧ x.wave.map Wave.key = r.wave.map Wave.key)) →
    let free : SendKind → SendEntry → Prop := fun k e => e ∈ s.out.entries ∧ e.kind = k ∧ e.inFlight = false
    let evicted : SendEntry → Prop := fun e =>
      free .status e ∨
      ((∀ x, ¬free .status x) ∧ free .presence e) ∨
      (r.kind = .cap ∧ (∀ x, ¬free .status x) ∧ (∀ x, ¬free .presence x) ∧ free .handoff e ∧
        ∀ x, free .handoff x → x.order ≤ e.order)
    (∀ (e : SendEntry) (pre post : List SendEntry), evicted e → s.out.entries = pre ++ e :: post →
      s.request r = ({ s with out := { s.out with entries := pre ++ post } }.raise .sendDropped).request r) ∧
    (r.kind = .handoff → (∀ e, ¬evicted e) → s.request r = s.raise .sendDropped) ∧
    (r.kind = .cap → ∃ e, evicted e)

/-- A STATUS or PRESENCE request that finds 4 entries, none of its kind, is refused with SEND_DROPPED and evicts
nothing: its QUERY is left unanswered, and the presence timer runs on to an expiry that requests again (R61). -/
def Obligations.FullQueueRefusesReports : Prop :=
  ∀ (s : State), s.running = true → s.bus.standing = .speaking → s.out.entries.length = 4 →
    (∀ k, k = .status ∨ k = .presence → (∀ x ∈ s.out.entries, x.kind ≠ k) →
      s.request ⟨k, none⟩ = s.raise .sendDropped) ∧
    (∀ (origin target : ZoneNo) (at_ : Moment), (∀ x ∈ s.out.entries, x.kind ≠ .status) →
      s.intake.slot = some ⟨⟨origin, .query target⟩, at_⟩ →
      exec .queryHandled s = .next (s.complete fun u => u.raise .sendDropped)) ∧
    (∀ d : Clock, (∀ x ∈ s.out.entries, x.kind ≠ .presence) → s.roster.presenceTimer = some d →
      reached s.showClock d = true →
      let d' := d + BitVec.ofNat 32 (50 * s.config.presenceCount)
      let t := { s with roster := { s.roster with presenceTimer := some d' } }.raise .sendDropped
      exec .presenceTimerExpiry s = .next t ∧
      ∀ u : State, u.running = true → u.config = s.config → u.roster = t.roster → reached u.showClock d' = true →
        exec .presenceTimerExpiry u =
          .next ({ u with roster := { u.roster with
            presenceTimer := some (d' + BitVec.ofNat 32 (50 * s.config.presenceCount)) } }.request ⟨.presence, none⟩))

/-! ## The roster -/

/-- A PRESENCE delivered to the roster sets its origin's entry, forms the cap target, answers a newcomer with a PRESENCE
unless one is queued or was completed less than P/4 ago, and ends the quiet period of PEER mode (R16, R70, R76). That
the delivery is a command of its own is the model's (log entry 8). -/
def Obligations.PresenceDelivered : Prop :=
  ∀ (s : State) (i : Fin 31) (kind : PeerKind) (cap : Byte) (rest : List RosterFrame),
    s.running = true → s.intake.inbox = .presence i kind cap :: rest →
    let peer : Peer := ⟨kind, cap, s.showClock, s.showClock + BitVec.ofNat 32 (3 * (50 * s.config.presenceCount))⟩
    let u := { s with
      intake := { s.intake with inbox := rest }
      roster := { s.roster with entries := s.roster.entries.set i (some peer) } }.formTarget
    let answered := s.roster.entries[i] ≠ none ∨ (∃ e ∈ s.out.entries, e.kind = .presence) ∨
      (∃ c, s.roster.completionStamp = some c ∧ (s.showClock - c).toNat * 4 < 50 * s.config.presenceCount)
    let ends := s.bus.standing = .listenOnly ∧ s.bus.expiryMark = true ∧ kind = .lighting
    (answered → ¬ends → exec .presenceDelivered s = .next u) ∧
    (¬answered → ¬ends → exec .presenceDelivered s = .next (u.request ⟨.presence, none⟩)) ∧
    (ends → exec .presenceDelivered s =
      .next ({ u with bus := { u.bus with
        standing := .speaking, quietDeadline := none, expiryMark := false } }.request ⟨.presence, none⟩))

/-- A CAP delivered to the roster sets its origin's cap, stamp and deadline, leaves the kind of a PRESENT entry and
makes an ABSENT one LIGHTING, and forms the cap target; it is answered by nothing (R71). That the delivery is a command
of its own is the model's (log entry 8). -/
def Obligations.CapDelivered : Prop :=
  ∀ (s : State) (i : Fin 31) (cap : Byte) (rest : List RosterFrame),
    s.running = true → s.intake.inbox = .cap i cap :: rest →
    let kind : PeerKind :=
      (match s.roster.entries[i] with
        | some p => p.kind
        | none => .lighting)
    let peer : Peer := ⟨kind, cap, s.showClock, s.showClock + BitVec.ofNat 32 (3 * (50 * s.config.presenceCount))⟩
    exec .capDelivered s =
      .next { s with
        intake := { s.intake with inbox := rest }
        roster := { s.roster with entries := s.roster.entries.set i (some peer) } }.formTarget

/-- An entry whose absence deadline is reached becomes ABSENT, the cue engine is signalled its zone, and the cap target
is formed; the signal counts the zone as arrived at every waiting record that lists it, oldest first (R72, R110). The
presence timer requests a PRESENCE at each expiry and runs on with period P (R75). -/
def Obligations.RosterTimersExpire : Prop :=
  (∀ (s : State) (i : Fin 31) (p : Peer) (z : ZoneNo), s.running = true → s.roster.entries[i] = some p →
    reached s.showClock p.absence = true → z.toNat = i.val →
    exec (.absenceExpiry i) s =
      .next ({ s with roster := { s.roster with
        entries := s.roster.entries.set i none } }.signalAbsence z).formTarget) ∧
  (∀ (s : State) (z : ZoneNo),
    let waits : CueRecord → Prop := fun c =>
      c.state = .awaitHandoff ∧ z ∈ (s.config.route c.route).predecessors
    (s.cues.map CueRecord.key).Nodup →
    ((∀ c ∈ s.cues, ¬waits c) → s.signalAbsence z = s) ∧
    (∀ (pre post : List CueRecord) (c : CueRecord), s.cues = pre ++ c :: post → (∀ x ∈ pre, ¬waits x) → waits c →
      s.signalAbsence z = (post.map CueRecord.key).foldl (State.signalCue z) (s.arrive c z)) ∧
    (∀ (k : CueKey), (∀ c ∈ s.cues, c.key = k → ¬waits c) → s.signalCue z k = s) ∧
    (∀ (k : CueKey) (c : CueRecord), c ∈ s.cues → c.key = k → waits c → s.signalCue z k = s.arrive c z)) ∧
  (∀ (s : State) (d : Clock), s.running = true → s.roster.presenceTimer = some d → reached s.showClock d = true →
    exec .presenceTimerExpiry s =
      .next ({ s with roster := { s.roster with
        presenceTimer := some (d + BitVec.ofNat 32 (50 * s.config.presenceCount)) } }.request ⟨.presence, none⟩))

/-! ## The level unit and the supply monitor -/

/-- The cap target is the smallest of the own cap and the floored caps of the PRESENT LIGHTING entries; formed at or
below K it takes K down at once and ends a slew, and formed above K it starts a slew step 10 ms on, if none is in
progress; a slew step takes K to the lower of K + σ and the cap target of that moment, and goes on 10 ms later while K
is lower; A follows K (R77 to R79, R82). -/
def Obligations.CapTermFollowsTheTarget : Prop :=
  (∀ s : State,
    s.target.toNat ≤ s.supply.ownCap.toNat ∧
    (∀ (i : Fin 31) (p : Peer), s.roster.entries[i] = some p → p.kind = .lighting →
      s.target.toNat ≤ max s.config.floor.toNat p.cap.toNat) ∧
    (s.target = s.supply.ownCap ∨
      ∃ (i : Fin 31) (p : Peer), s.roster.entries[i] = some p ∧ p.kind = .lighting ∧
        s.target.toNat = max s.config.floor.toNat p.cap.toNat)) ∧
  (∀ s : State,
    (s.target.toNat ≤ s.level.k.toNat →
      s.formTarget = { s with level := { s.level with
        k := s.target
        a := if s.level.d.toNat ≤ s.target.toNat then s.level.d else s.target
        slewDeadline := none } }) ∧
    (s.level.k.toNat < s.target.toNat →
      (∀ d, s.level.slewDeadline = some d → s.formTarget = s) ∧
      (s.level.slewDeadline = none →
        s.formTarget = { s with level := { s.level with slewDeadline := some (s.showClock + 10) } }))) ∧
  (∀ (s : State) (d : Clock), s.running = true → s.level.slewDeadline = some d → reached s.showClock d = true →
    let k : Byte := BitVec.ofNat 8 (min (s.level.k.toNat + s.config.slew.toNat) s.target.toNat)
    exec .slewStep s =
      .next { s with level := { s.level with
        k := k
        a := if s.level.d.toNat ≤ k.toNat then s.level.d else k
        slewDeadline :=
          if s.level.k.toNat + s.config.slew.toNat < s.target.toNat then some (d + 10) else none } })

/-- A DIM sets D at once with a ramp time of 0, and else starts a ramp from the present D, in place of one in progress;
step j of t of a ramp sets D to D0 + trunc((L − D0) × j / t), A with it, and step t ends it (R80 to R82). -/
def Obligations.DimmerRamps : Prop :=
  (∀ (s : State) (origin : ZoneNo) (target time : Byte) (at_ : Moment), s.running = true →
    s.intake.slot = some ⟨⟨origin, .dim target time⟩, at_⟩ →
    (time = 0 → exec .dimHandled s = .next (s.complete fun u => { u with level := { u.level with
      d := target, a := (if target.toNat ≤ u.level.k.toNat then target else u.level.k), ramp := none } })) ∧
    (time ≠ 0 → exec .dimHandled s = .next (s.complete fun u => { u with level := { u.level with
      ramp := some ⟨u.level.d, target, time.toNat, 0, u.showClock + 10⟩ } }))) ∧
  (∀ (s : State) (r : Ramp), s.running = true → s.level.ramp = some r → reached s.showClock r.deadline = true →
    r.taken < r.steps →
    ∃ d : Byte,
      (d.toNat : Int) =
        r.start.toNat + (((r.target.toNat : Int) - r.start.toNat) * (r.taken + 1 : Nat)).tdiv r.steps ∧
      (r.taken + 1 = r.steps → d = r.target) ∧
      exec .dimmerRampStep s =
        .next { s with level := { s.level with
          d := d
          a := if d.toNat ≤ s.level.k.toNat then d else s.level.k
          ramp := if r.taken + 1 < r.steps then
              some { r with taken := r.taken + 1, deadline := r.deadline + 10 } else none } })

/-- A band event acts on the supply state as the table of R88 gives: each move sets the state's own cap and starts the
timer of a pending state, a state that stays keeps its timers, a move into DEEP raises SUPPLY_DEEP (R91), and a change
of the own cap forms the cap target and requests a CAP (R92). The measured voltage names its band by the levels of
R86. -/
def Obligations.BandEventsMoveTheSupply : Prop :=
  ∀ (s : State) (v : Millivolts), s.running = true →
    let vt := 9000 + 500 * s.config.vtSelection.toNat
    let band : Band :=
      if v < 7000 then .b0 else if v < 7400 then .b1 else if v < vt then .b2 else if v < vt + 400 then .b3 else .b4
    let st : SupplyState :=
      (match s.supply.state, band with
        | .normal, .b0 => .deep
        | .normal, .b1 => .sagPending
        | .normal, .b2 => .sagPending
        | .normal, .b3 => .normal
        | .normal, .b4 => .normal
        | .sagPending, .b0 => .deep
        | .sagPending, .b1 => .sagPending
        | .sagPending, .b2 => .sagPending
        | .sagPending, .b3 => .normal
        | .sagPending, .b4 => .normal
        | .sag, .b0 => .deep
        | .sag, .b1 => .sag
        | .sag, .b2 => .sag
        | .sag, .b3 => .sag
        | .sag, .b4 => .recoverPending
        | .recoverPending, .b0 => .deep
        | .recoverPending, .b1 => .sag
        | .recoverPending, .b2 => .sag
        | .recoverPending, .b3 => .sag
        | .recoverPending, .b4 => .recoverPending
        | .deep, .b0 => .deep
        | .deep, .b1 => .deep
        | .deep, .b2 => .sag
        | .deep, .b3 => .sag
        | .deep, .b4 => .recoverPending)
    let cap : Byte :=
      (match st with
        | .normal | .sagPending => 255
        | .sag | .recoverPending => s.config.sagCap
        | .deep => 0)
    let moved := { s with supply :=
      { state := st
        ownCap := cap
        settle := if st = .sagPending then some (s.showClock + 20) else none
        release := if st = .recoverPending then some (s.showClock + 500) else none
        band := band } }
    let moved := if st = .deep then moved.raise .supplyDeep else moved
    (band ≠ s.supply.band → st = s.supply.state →
      exec (.bandEvent v) s = .next { s with supply := { s.supply with band := band } }) ∧
    (band ≠ s.supply.band → st ≠ s.supply.state → cap = s.supply.ownCap → exec (.bandEvent v) s = .next moved) ∧
    (band ≠ s.supply.band → st ≠ s.supply.state → cap ≠ s.supply.ownCap →
      exec (.bandEvent v) s = .next (moved.formTarget.request ⟨.cap, none⟩))

/-- The settle timer's expiry moves SAG_PENDING to SAG with SUPPLY_SAG, the release timer's RECOVER_PENDING to NORMAL;
a change of the own cap forms the cap target and requests a CAP (R89, R90, R92). -/
def Obligations.SupplyTimersExpire : Prop :=
  ∀ (s : State) (d : Clock), s.running = true → reached s.showClock d = true →
    (s.supply.state = .sagPending → s.supply.settle = some d →
      let moved := { s with supply := { s.supply with
        state := .sag, ownCap := s.config.sagCap, settle := none, release := none } }
      exec .settleTimerExpiry s =
        .next ((if s.config.sagCap = s.supply.ownCap then moved
          else moved.formTarget.request ⟨.cap, none⟩).raise .supplySag)) ∧
    (s.supply.state = .recoverPending → s.supply.release = some d →
      let moved := { s with supply := { s.supply with
        state := .normal, ownCap := 255, settle := none, release := none } }
      exec .releaseTimerExpiry s =
        .next (if (255 : Byte) = s.supply.ownCap then moved else moved.formTarget.request ⟨.cap, none⟩))

/-! ## Cues -/

/-- A CALL whose key is held completes in DRAINING with no effect; else it removes a FADING layer of its key and goes on
as a new CALL, restyles a RUNNING or HELD one, updates a waiting record of its route in place, and arms a record of
another route afresh in its place (R102 to R106). -/
def Obligations.CallOfAHeldKey : Prop :=
  (∀ (s : State) (origin : ZoneNo) (tag : Byte) (route : BitVec 3) (sh : Shape) (delay : Byte) (at_ : Moment),
    s.running = true → s.intake.slot = some ⟨⟨origin, .call tag route sh delay⟩, at_⟩ →
    exec .callHandled s = .next (s.complete fun u => u.settleCall ⟨origin, tag⟩ route sh delay)) ∧
  (∀ (s : State) (key : CueKey) (route : BitVec 3) (sh : Shape) (delay : Byte),
    (s.isDraining = true → s.settleCall key route sh delay = s) ∧
    (∀ (pre post : List Layer) (l : Layer), s.isDraining = false → s.stack.layers = pre ++ l :: post → l.key = key →
      (∀ x ∈ pre ++ post, x.key ≠ key) →
      (l.state = .fading → s.settleCall key route sh delay =
        ({ s with stack := { s.stack with layers := pre ++ post } }).settleCall key route sh delay) ∧
      (l.state ≠ .fading → ∀ lower upper : List Layer,
        let styled := { l with
          shape := { sh with handoffPoint := l.shape.handoffPoint }, phase := 0, subCount := 0, state := .running }
        let above : Layer → Prop := fun x => sh.priority.toNat < x.shape.priority.toNat ∨
          (x.shape.priority = sh.priority ∧ l.startOrder < x.startOrder)
        pre ++ post = lower ++ upper → (∀ x ∈ lower, ¬above x) → (∀ x ∈ upper, above x) →
        s.settleCall key route sh delay =
          ({ s with stack := { s.stack with layers := lower ++ styled :: upper } }).checkDue key)) ∧
    (∀ (pre post : List CueRecord) (c : CueRecord), s.isDraining = false → (∀ x ∈ s.stack.layers, x.key ≠ key) →
      s.cues = pre ++ c :: post → c.key = key → (∀ x ∈ pre ++ post, x.key ≠ key) →
      (c.route = route → s.settleCall key route sh delay =
        { s with cues := pre ++ { c with shape := sh, startDelay := delay } :: post }) ∧
      (c.route ≠ route → s.settleCall key route sh delay =
        s.arm ⟨key, route, sh, delay, .awaitHandoff, [], none, none⟩)))

/-- A CALL whose key is held nowhere arms a record at the tail, the oldest displaced with CUE_DISPLACED or the CALL
refused with CUE_REFUSED when 8 records wait. An armed record of a route head enters DELAYING; a follower's counts its
ABSENT predecessors, has its route's fallback deadline, and enters DELAYING if its join test is met (R99, R107,
R108). -/
def Obligations.CallOfANewKey : Prop :=
  (∀ (s : State) (key : CueKey) (route : BitVec 3) (sh : Shape) (delay : Byte), s.isDraining = false →
    (∀ x ∈ s.stack.layers, x.key ≠ key) → (∀ x ∈ s.cues, x.key ≠ key) →
    let c : CueRecord := ⟨key, route, sh, delay, .awaitHandoff, [], none, none⟩
    (s.cues.length < 8 → s.settleCall key route sh delay = ({ s with cues := s.cues ++ [c] }).arm c) ∧
    (∀ (oldest : CueRecord) (rest : List CueRecord), s.cues = oldest :: rest → s.cues.length = 8 →
      (s.config.policy = .replaceOldest → s.settleCall key route sh delay =
        ({ s with cues := rest ++ [c] }.raise .cueDisplaced).arm c) ∧
      (s.config.policy = .refuseNew → s.settleCall key route sh delay = s.raise .cueRefused))) ∧
  (∀ (s : State) (c held : CueRecord) (pre post : List CueRecord), s.cues = pre ++ held :: post → held.key = c.key →
    (∀ x ∈ pre ++ post, x.key ≠ c.key) →
    let r := s.config.route c.route
    let armed := { c with
      state := .awaitHandoff
      arrived := r.predecessors.filter fun z => (s.peer z).isNone
      fallback := if r.predecessors = [] ∨ r.fallback = 0 then none
        else some (s.showClock + BitVec.ofNat 32 (10 * r.fallback.toNat))
      delay := none }
    let t := { s with cues := pre ++ armed :: post }
    let met := (r.join = .first ∧ ∃ z ∈ r.predecessors, s.peer z = none) ∨
      (r.join = .both ∧ ∀ z ∈ r.predecessors, s.peer z = none)
    (r.predecessors = [] → s.arm c = t.enterDelaying armed) ∧
    (r.predecessors ≠ [] → met → s.arm c = t.enterDelaying armed) ∧
    (r.predecessors ≠ [] → ¬met → s.arm c = t))

/-- A HANDOFF is ignored if a layer holds its key, if no record does, if the record's route differs or if it is
DELAYING; else its sender is added to the record's arrived set once, and the join test applied (R99, R109). -/
def Obligations.HandoffHandled : Prop :=
  (∀ (s : State) (sender origin : ZoneNo) (tag : Byte) (route : BitVec 3) (at_ : Moment),
    s.running = true → s.intake.slot = some ⟨⟨sender, .handoff origin tag route⟩, at_⟩ →
    exec .handoffHandled s = .next (s.complete fun u => u.settleHandoff sender ⟨origin, tag⟩ route)) ∧
  (∀ (s : State) (sender : ZoneNo) (key : CueKey) (route : BitVec 3),
    ((∃ l ∈ s.stack.layers, l.key = key) → s.settleHandoff sender key route = s) ∧
    ((∀ c ∈ s.cues, c.key ≠ key) → s.settleHandoff sender key route = s) ∧
    (∀ (pre post : List CueRecord) (c : CueRecord), (∀ l ∈ s.stack.layers, l.key ≠ key) →
      s.cues = pre ++ c :: post → c.key = key → (∀ x ∈ pre ++ post, x.key ≠ key) →
      (c.route ≠ route ∨ c.state = .delaying → s.settleHandoff sender key route = s) ∧
      (c.route = route → c.state = .awaitHandoff → s.settleHandoff sender key route = s.arrive c sender))) ∧
  (∀ (s : State) (c : CueRecord) (z : ZoneNo) (pre post : List CueRecord), s.cues = pre ++ c :: post →
    (∀ x ∈ pre ++ post, x.key ≠ c.key) →
    let a := { c with arrived := if z ∈ c.arrived then c.arrived else c.arrived ++ [z] }
    let r := s.config.route c.route
    let met := (r.join = .first ∧ a.arrived ≠ []) ∨ (r.join = .both ∧ ∀ p ∈ r.predecessors, p ∈ a.arrived)
    let t := { s with cues := pre ++ a :: post }
    (met → s.arrive c z = t.enterDelaying a) ∧ (¬met → s.arrive c z = t))

/-- A CANCEL selects the keys of its origin (31: all) and tag (0: all): it removes their records, removes their layers
or gives them a fade with the handoff spent, and takes their HANDOFFs out of the queue or marks the one in flight
withdrawn; in DRAINING the drain is checked (R30, R66, R114 to R117, R182). -/
def Obligations.CancelHandled : Prop :=
  ∀ (s : State) (sender origin : ZoneNo) (tag : Byte) (mode : CancelMode) (time : Byte) (at_ : Moment),
    s.running = true → s.intake.slot = some ⟨⟨sender, .cancel origin tag mode time⟩, at_⟩ →
    let hit : CueKey → Bool := fun k =>
      (decide (k.origin = origin) || decide (origin = 31)) && (decide (k.tag = tag) || decide (tag = 0))
    let layer : State → Layer → Option Layer := fun u l =>
      if hit l.key = false then some l
      else if mode = .fadeOut ∧ time ≠ 0 then
        some { l with state := .fading, spent := true, fade := some ⟨l.opacity, time.toNat, 0, u.showClock + 10⟩ }
      else none
    let entry : State → SendEntry → Option SendEntry := fun u e =>
      (match e.wave with
        | none => some e
        | some w =>
          if hit w.key = true ∧ (w.key ∈ u.cues.map CueRecord.key ∨ w.key ∈ u.stack.layers.map Layer.key) then
            if e.inFlight then some { e with withdrawn := true } else none
          else some e)
    exec .cancelHandled s = .next (s.complete fun u =>
      ({ u with
        cues := u.cues.filter (fun c => !hit c.key)
        stack := { u.stack with layers := u.stack.layers.filterMap (layer u) }
        out := { u.out with entries := u.out.entries.filterMap (entry u) } }).drainCheck)

/-- A record whose fallback deadline is reached enters DELAYING, whatever has arrived, and one whose delay deadline is
reached starts; entering DELAYING drops the fallback deadline and sets the delay deadline, or starts the cue at once
with a start delay of 0 (R100, R101, R111). -/
def Obligations.CueDeadlinesExpire : Prop :=
  ∀ (s : State) (c : CueRecord) (pre post : List CueRecord), s.cues = pre ++ c :: post →
    (∀ x ∈ pre ++ post, x.key ≠ c.key) →
    (∀ d, s.running = true → c.state = .awaitHandoff → c.fallback = some d → reached s.showClock d = true →
      exec (.fallbackExpiry c.key) s = .next (s.enterDelaying c)) ∧
    (∀ d, s.running = true → c.state = .delaying → c.delay = some d → reached s.showClock d = true →
      exec (.delayExpiry c.key) s = .next (s.startCue c)) ∧
    (c.startDelay ≠ 0 → s.enterDelaying c = { s with cues := pre ++ { c with
      state := .delaying
      fallback := none
      delay := some (s.showClock + BitVec.ofNat 32 (10 * c.startDelay.toNat)) } :: post }) ∧
    (c.startDelay = 0 → s.enterDelaying c =
      ({ s with cues := pre ++ { c with state := .delaying, fallback := none, delay := none } :: post }).startCue
        { c with state := .delaying, fallback := none, delay := none })

/-! ## Layers -/

/-- A cue that starts leaves the list and becomes a RUNNING layer at phase 0; the stack places it by priority, at the
top of its own, and checks its due point. A full stack gives up its bottom layer, with LAYER_EVICTED, for a higher
priority, and refuses the newcomer, with LAYER_REFUSED, otherwise; the loser hands off if it has not. A handoff that
falls due is spent, and requested if the route sends handoffs (R101, R132, R133, R135, R136). -/
def Obligations.CuesStartAsLayers : Prop :=
  (∀ (s : State) (c : CueRecord) (pre post : List CueRecord), s.cues = pre ++ c :: post →
    (∀ x ∈ pre ++ post, x.key ≠ c.key) →
    s.startCue c = ({ s with
      cues := pre ++ post
      stack := { s.stack with nextStart := s.stack.nextStart + 1 } }).insertLayer
        { key := c.key
          route := c.route
          reverse := (s.config.route c.route).reverse
          shape := c.shape
          phase := 0
          subCount := 0
          opacity := 255
          state := .running
          fade := none
          spent := false
          startOrder := s.stack.nextStart }) ∧
  (∀ (s : State) (l : Layer),
    (∀ x ∈ s.stack.layers, x.startOrder < l.startOrder) → (∀ x ∈ s.stack.layers, x.key ≠ l.key) →
    (s.stack.layers.map Layer.key).Nodup →
    (∀ lower upper : List Layer, s.stack.layers.length < 6 → s.stack.layers = lower ++ upper →
      (∀ x ∈ lower, x.shape.priority.toNat ≤ l.shape.priority.toNat) →
      (∀ x ∈ upper, l.shape.priority.toNat < x.shape.priority.toNat) →
      s.insertLayer l = ({ s with stack := { s.stack with layers := lower ++ l :: upper } }).checkDue l.key) ∧
    (∀ (bottom : Layer) (rest : List Layer), s.stack.layers = bottom :: rest → rest.length = 5 →
      let request : Layer → State → State := fun x u =>
        if x.spent = false ∧ (u.config.route x.route).sendsHandoff = true then
          u.request ⟨.handoff, some ⟨x.key, x.route⟩⟩
        else u
      (bottom.shape.priority.toNat < l.shape.priority.toNat → s.insertLayer l =
        (request bottom ({ s with stack := { s.stack with layers := rest } }.raise .layerEvicted)).insertLayer l) ∧
      (l.shape.priority.toNat ≤ bottom.shape.priority.toNat →
        s.insertLayer l = request l (s.raise .layerRefused)))) ∧
  (∀ (s : State) (k : CueKey),
    ((∀ x ∈ s.stack.layers, x.key ≠ k) → s.checkDue k = s) ∧
    (∀ (pre post : List Layer) (l : Layer), s.stack.layers = pre ++ l :: post → l.key = k →
      (∀ x ∈ pre ++ post, x.key ≠ k) →
      let due := l.state = .running ∧ l.spent = false ∧
        l.phase = l.shape.period.toNat * l.shape.handoffPoint.toNat / 256
      let t := { s with stack := { s.stack with layers := pre ++ { l with spent := true } :: post } }
      (¬due → s.checkDue k = s) ∧
      (due → (s.config.route l.route).sendsHandoff = false → s.checkDue k = t) ∧
      (due → (s.config.route l.route).sendsHandoff = true →
        s.checkDue k = t.request ⟨.handoff, some ⟨k, l.route⟩⟩)))

/-- A tick steps the show clock, wrapping, and the sub-count of every advancing layer. A layer whose sub-count has
reached its unit advances: the sub-count is 0 again and the phase one more; at its period a looping layer runs anew, a
DROP layer is removed, and a KEEP layer is HELD, or stays FADING; then its due point, and the drain, are checked (R121,
R122, R125, R126). That an advance is a command of its own, and a full sub-count waits for it, is the model's (log
entry 4). -/
def Obligations.TicksAndPhases : Prop :=
  (∀ s : State, s.running = true →
    let ticked : Layer → Layer := fun l =>
      if (l.state = .running ∨ (l.state = .fading ∧ l.phase < l.shape.period.toNat)) ∧
          l.subCount < (if l.shape.long then 64 else 1) then
        { l with subCount := l.subCount + 1 }
      else l
    exec .showTick s = .next { s with
      showClock := s.showClock + 1
      stack := { s.stack with layers := s.stack.layers.map ticked } }) ∧
  (∀ s : State, s.running = false → exec .showTick s = .next s) ∧
  (∀ (s : State) (pre post : List Layer) (l : Layer), s.running = true → s.stack.layers = pre ++ l :: post →
    (∀ x ∈ pre ++ post, x.key ≠ l.key) →
    l.state = .running ∨ (l.state = .fading ∧ l.phase < l.shape.period.toNat) →
    (if l.shape.long then 64 else 1) ≤ l.subCount →
    let on := { l with subCount := 0, phase := l.phase + 1 }
    let became : List Layer :=
      if l.phase + 1 ≠ l.shape.period.toNat then [on]
      else if l.shape.loop = true then [{ on with phase := 0 }]
      else if l.shape.endAction = .drop then []
      else if l.state = .running then [{ on with state := .held }]
      else [on]
    exec (.layerPhaseAdvance l.key) s =
      .next (({ s with stack := { s.stack with layers := pre ++ became ++ post } }).checkDue l.key).drainCheck)

/-- A step of a fade: at step j of t the opacity is the start opacity minus floor(start × j / t), the next step 10 ms
later, and at step t the layer is removed; in DRAINING the drain is checked (R129, R182, R184). -/
def Obligations.FadesStep : Prop :=
  ∀ (s : State) (pre post : List Layer) (l : Layer) (f : Fade), s.running = true →
    s.stack.layers = pre ++ l :: post → (∀ x ∈ pre ++ post, x.key ≠ l.key) → l.state = .fading → l.fade = some f →
    reached s.showClock f.deadline = true →
    (f.taken + 1 = f.steps → exec (.fadeStep l.key) s =
      .next ({ s with stack := { s.stack with layers := pre ++ post } }).drainCheck) ∧
    (f.taken + 1 < f.steps → ∃ opacity : Byte,
      opacity.toNat = f.start.toNat - f.start.toNat * (f.taken + 1) / f.steps ∧
      exec (.fadeStep l.key) s = .next ({ s with stack := { s.stack with layers :=
        pre ++ { l with
          opacity := opacity
          fade := some { f with taken := f.taken + 1, deadline := f.deadline + 10 } } :: post } }).drainCheck)

/-! ## The base -/

/-- A THEME sets the theme and, before the dark phase, moves the base to it: at once with a time of 0, else in steps of
10 ms from the present look, in place of a transition in progress; past the drain end the transition is left alone
(past the dark order by log entry 16). Step j of t takes each channel and the level to start + trunc((target − start) ×
j / t), and step t ends the transition (R150 to R152, R183). -/
def Obligations.ThemesAndTransitions : Prop :=
  (∀ (s : State) (origin : ZoneNo) (colour : Colour) (level time : Byte) (at_ : Moment), s.running = true →
    s.intake.slot = some ⟨⟨origin, .theme colour level time⟩, at_⟩ →
    exec .themeHandled s = .next (s.complete fun u =>
      { u with base :=
        if u.nodeState = .draining .dark ∨ u.nodeState = .draining .ordered then
          { u.base with theme := ⟨colour, level⟩ }
        else if time = 0 then ⟨⟨colour, level⟩, ⟨colour, level⟩, none⟩
        else ⟨u.base.current, ⟨colour, level⟩,
          some ⟨u.base.current, ⟨colour, level⟩, time.toNat, 0, u.showClock + 10⟩⟩ })) ∧
  (∀ (s : State) (tr : Transition), s.running = true → s.base.transition = some tr →
    reached s.showClock tr.deadline = true → tr.taken < tr.steps →
    let at_ : Byte → Byte → Byte → Prop := fun from_ target now =>
      (now.toNat : Int) = from_.toNat + (((target.toNat : Int) - from_.toNat) * (tr.taken + 1 : Nat)).tdiv tr.steps ∧
        (tr.taken + 1 = tr.steps → now = target)
    ∃ look : Look,
      at_ tr.start.colour.red tr.target.colour.red look.colour.red ∧
      at_ tr.start.colour.green tr.target.colour.green look.colour.green ∧
      at_ tr.start.colour.blue tr.target.colour.blue look.colour.blue ∧
      at_ tr.start.level tr.target.level look.level ∧
      exec .transitionStep s = .next ({ s with base := { s.base with
        current := look
        transition := if tr.taken + 1 < tr.steps then
            some { tr with taken := tr.taken + 1, deadline := tr.deadline + 10 } else none } }).drainCheck)

/-! ## Notices and reports -/

/-- Raising a notice sets its flag and its group's group-new flag, and takes that group's clear mark from a PRESENCE in
flight; notice k is bit k, in the groups of the table of R187. A CLEAR clears the notices of its mask and no group-new
flag; a QUERY requests a STATUS; a peer's STATUS has no effect (R34 to R36, R187 to R190). -/
def Obligations.NoticesAndReports : Prop :=
  (∀ (s : State) (n : Notice),
    (∀ k, (s.raise n).status.notices.getLsbD k = (s.status.notices.getLsbD k || decide (k = n.number))) ∧
    (s.raise n).status.groupNew =
      (if n.number < 6 then { s.status.groupNew with cue := true }
        else if n.number < 12 then { s.status.groupNew with bus := true }
        else { s.status.groupNew with output := true }) ∧
    (s.raise n).out.entries = s.out.entries.map (fun e => { e with clearMarks :=
      if n.number < 6 then { e.clearMarks with cue := false }
      else if n.number < 12 then { e.clearMarks with bus := false }
      else { e.clearMarks with output := false } }) ∧
    s.raise n = { s with status := (s.raise n).status, out := (s.raise n).out } ∧
    (s.raise n).out.nextOrder = s.out.nextOrder) ∧
  [Notice.intakeOverrun, .badBody, .cueDisplaced, .cueRefused, .layerEvicted, .layerRefused, .sendDropped,
    .listenOnlyEntered, .lineStuck, .voteMuted, .bitFault, .twinZone, .supplySag, .supplyDeep, .portFault,
    .frameSkipped].map Notice.number = List.range 16 ∧
  (∀ (s : State) (origin : ZoneNo) (at_ : Moment), s.running = true →
    (∀ target mask, s.intake.slot = some ⟨⟨origin, .clear target mask⟩, at_⟩ →
      exec .clearHandled s = .next (s.complete fun u =>
        { u with status := { u.status with notices := u.status.notices &&& ~~~mask } })) ∧
    (∀ target, s.intake.slot = some ⟨⟨origin, .query target⟩, at_⟩ →
      exec .queryHandled s = .next (s.complete fun u => u.request ⟨.status, none⟩)) ∧
    (∀ body, s.intake.slot = some ⟨⟨origin, .status body⟩, at_⟩ →
      exec .statusHandled s = .next (s.complete fun u => u)))

/-! ## Sleep and wake -/

/-- A SLEEP in ACTIVE empties the cue list, makes every layer single-run and starts the drain timer, and the drain's end
is tested at once; in DRAINING it has no effect (R33, R181, R182). -/
def Obligations.SleepHandled : Prop :=
  ∀ (s : State) (origin : ZoneNo) (time : Byte) (at_ : Moment), s.intake.slot = some ⟨⟨origin, .sleep time⟩, at_⟩ →
    let single : Layer → Layer := fun l => { l with shape := { l.shape with loop := false } }
    (s.nodeState = .active → exec .sleepHandled s = .next (s.complete fun u =>
      ({ u with
        nodeState := .draining .proper
        cues := []
        stack := { u.stack with layers := u.stack.layers.map single }
        drainDeadline := some (u.showClock + BitVec.ofNat 32 (100 * time.toNat)) }).drainCheck)) ∧
    (∀ phase, s.nodeState = .draining phase → exec .sleepHandled s = .next (s.complete fun u => u))

/-- A WAKE in DRAINING returns the node to ACTIVE: the drain is over, the base moves to the theme over the dark fade
time, the layers keep their state, and each darkened port returns to work, SHIFTING without an echo check while a shift
is in progress; in ACTIVE it has no effect (R174, R185; the send count by log entry 10). -/
def Obligations.WakeHandled : Prop :=
  ∀ (s : State) (origin : ZoneNo) (at_ : Moment), s.intake.slot = some ⟨⟨origin, .wake⟩, at_⟩ →
    (s.nodeState = .active → exec .wakeHandled s = .next (s.complete fun u => u)) ∧
    (∀ phase, s.nodeState = .draining phase →
      ∃ t : State,
        exec .wakeHandled s = .next (s.complete fun u =>
          { u with nodeState := .active, drainDeadline := none, base := t.base, ports := t.ports }) ∧
        t.base.theme = s.base.theme ∧
        (s.config.darkFade = 0 → t.base.current = s.base.theme ∧ t.base.transition = none) ∧
        (s.config.darkFade ≠ 0 → t.base.current = s.base.current ∧ t.base.transition =
          some ⟨s.base.current, s.base.theme, s.config.darkFade.toNat, 0, s.showClock + 10⟩) ∧
        ∀ p : Fin 4,
          let x := s.ports[p]
          let y := t.ports[p]
          let c := s.config.ports[p]
          let busy := x.activity = .shifting ∨ x.activity = .darkShifting
          (x.state ≠ .dark → y = x) ∧
          (x.state = .dark → c.type = .off → y.state = .off ∧ y.activity = .none ∧ y.shift = none ∧ y.slot = none ∧
            y.frameDeadline = none ∧ y.refreshDeadline = none ∧ y.probeDeadline = none) ∧
          (x.state = .dark → c.type ≠ .off →
            (busy → y.state = .shifting ∧ y.activity = .shifting ∧ y.shift = x.shift ∧ y.checkEcho = false) ∧
            (¬busy → y.state = .idle ∧ y.activity = .none ∧ y.shift = none) ∧
            y.forced = true ∧ y.lastSent = x.lastSent ∧ y.slot = none ∧ y.refreshDeadline = none ∧
            y.failureRun = 0 ∧ y.sendCount = 0 ∧ y.probeDeadline = none ∧ y.echoTimeout = none ∧
            y.frameDeadline = some (s.showClock + BitVec.ofNat 32 c.framePeriod)))

/-- The drain ends when the stack settles or the drain timer expires. The dark phase then fades every layer and moves
the base to the theme colour at level 0 over the dark fade time; the dark order follows at the event after which the
base is dark and the stack empty, and each port goes DARK: an OFF or PWM port at once, a shift in progress to its end,
any other chain with its dark frame begun (R173, R182 to R184; a probe in its echo wait by log entry 12, the last-sent
frame of an OFF port by log entry 23, the forced-send mark left as it was by log entry 25). -/
def Obligations.DrainsEnd : Prop :=
  (∀ (s : State) (d : Clock), s.nodeState = .draining .proper → s.drainDeadline = some d →
    reached s.showClock d = true → exec .drainTimerExpiry s = .next s.beginDarkPhase.darkCheck) ∧
  (∀ s : State,
    (s.nodeState = .draining .proper → (∀ l ∈ s.stack.layers, l.state = .held) →
      s.drainCheck = s.beginDarkPhase.darkCheck) ∧
    (s.nodeState = .draining .proper → (∃ l ∈ s.stack.layers, l.state ≠ .held) → s.drainCheck = s) ∧
    (s.nodeState = .draining .dark → s.drainCheck = s.darkCheck) ∧
    (s.nodeState = .active ∨ s.nodeState = .draining .ordered → s.drainCheck = s)) ∧
  (∀ s : State,
    let target : Look := ⟨s.base.theme.colour, 0⟩
    let fade : Layer → Layer := fun l =>
      { l with state := .fading, fade := some ⟨l.opacity, s.config.darkFade.toNat, 0, s.showClock + 10⟩ }
    let moving : Transition := ⟨s.base.current, target, s.config.darkFade.toNat, 0, s.showClock + 10⟩
    s.beginDarkPhase = { s with
      nodeState := .draining .dark
      drainDeadline := none
      stack := { s.stack with layers := if s.config.darkFade = 0 then [] else s.stack.layers.map fade }
      base := if s.config.darkFade = 0 then { s.base with current := target, transition := none }
        else { s.base with transition := some moving } }) ∧
  (∀ s : State,
    let dark := s.base.current.level = 0 ∧ s.base.transition = none ∧ s.stack.layers = []
    (¬dark → s.darkCheck = s) ∧
    (dark → (∀ p : Fin 4, s.ports[p].state ≠ .dark) →
      let ordered : Fin 4 → Port := fun p =>
        let x := s.ports[p]
        let c := s.config.ports[p]
        { x with
          state := .dark
          activity :=
            if c.type = .off ∨ c.type = .pwm then .none
            else if x.activity = .shifting then .shifting else .darkShifting
          shift :=
            if c.type = .off ∨ c.type = .pwm then none
            else if x.activity = .shifting then x.shift
            else some ⟨List.replicate c.pixels ⟨0, 0, 0⟩, x.sendCount, ⟨s.showClock, shiftMicros c⟩⟩
          slot := none
          lastSent := some (List.replicate c.pixels ⟨0, 0, 0⟩)
          refreshDeadline := none
          frameDeadline := none
          failureRun := 0
          probeDeadline := none
          echoTimeout := none
          reportedDark := decide (c.type = .off ∨ c.type = .pwm) }
      s.darkCheck = { s with
        nodeState := .draining .ordered, ports := Vector.ofFn ordered, pwm := Vector.replicate 12 0 }))

/-- The node enters ASLEEP once every port has reported dark and no attempt is in flight: queues, roster, cue list and
stack are emptied with no notice, the timers stop, the bus port watches falling edges only, and the rest is held; until
then the command has no effect; the inbox emptied with the intake is the model's own (log entry 8)
(R52, R67, R74, R84, R93, R98, R153, R184). -/
def Obligations.EntryToAsleep : Prop :=
  ∀ s : State,
    let ready := s.nodeState = .draining .ordered ∧ (∀ p : Fin 4, s.ports[p].state = .dark ∧
      s.ports[p].reportedDark = true) ∧ (∀ f, s.bus.line ≠ .sending f)
    (ready → exec .enterAsleep s = .next { s with
      nodeState := .asleep
      drainDeadline := none
      bus := { s.bus with line := .unwatched, quietDeadline := none, expiryMark := false }
      out := { s.out with entries := [] }
      intake := ⟨[], none, []⟩
      roster := { s.roster with entries := Vector.replicate 31 none, presenceTimer := none }
      level := { s.level with slewDeadline := none, ramp := none }
      supply := { s.supply with settle := none, release := none }
      cues := []
      stack := { s.stack with layers := [] }
      base := { s.base with transition := none } }) ∧
    (¬ready → exec .enterAsleep s = .next s)

/-! ## The string ports -/

/-- At a port's frame event the next one is set a frame period on, and a working port composes its frame, which change
detection discards if it equals the last-sent frame before the refresh deadline with no forced send. A kept frame is
sent at once from IDLE, on a PWM port by its channels, and waits in the slot of a busy port, with FRAME_SKIPPED for the
frame it replaces there; a FAULTED port ignores the event (R161, R164 to R168). -/
def Obligations.PortFrameEvents : Prop :=
  ∀ (s : State) (p : Fin 4) (d : Clock), s.running = true → s.ports[p].frameDeadline = some d →
    reached s.showClock d = true →
    let c := s.config.ports[p]
    let f := s.compose p
    let x := { s.ports[p] with frameDeadline := some (d + BitVec.ofNat 32 c.framePeriod) }
    let count : BitVec 16 := if c.type = .confirmed then x.sendCount + 1 else x.sendCount
    let begun := { x with
      slot := none
      lastSent := some f
      refreshDeadline := some (s.showClock + BitVec.ofNat 32 c.refreshInterval)
      forced := false }
    let discarded := x.lastSent = some f ∧ (∃ r, x.refreshDeadline = some r ∧ reached s.showClock r = false) ∧
      x.forced = false
    let working := x.state = .idle ∨ x.state = .shifting ∨ x.state = .awaitEcho
    let channel : Nat → Byte := fun k =>
      (match f[k / 3]? with
        | none => 0
        | some pixel => if k % 3 = 0 then pixel.red else if k % 3 = 1 then pixel.green else pixel.blue)
    (x.state = .faulted → exec (.portFrameEvent p) s = .next { s with ports := s.ports.set p x }) ∧
    (working → discarded → exec (.portFrameEvent p) s = .next { s with ports := s.ports.set p x }) ∧
    (x.state = .idle → ¬discarded → c.type = .pwm →
      exec (.portFrameEvent p) s = .next { s with
        ports := s.ports.set p begun, pwm := Vector.ofFn fun k : Fin 12 => channel k.val }) ∧
    (x.state = .idle → ¬discarded → c.type ≠ .pwm →
      exec (.portFrameEvent p) s = .next { s with ports := s.ports.set p { begun with
        state := .shifting
        activity := .shifting
        shift := some ⟨f, count, ⟨s.showClock, shiftMicros c⟩⟩
        sendCount := count
        checkEcho := true
        echoTimeout := none } }) ∧
    (x.state = .shifting ∨ x.state = .awaitEcho → ¬discarded →
      let t := { s with ports := s.ports.set p { x with slot := some f } }
      exec (.portFrameEvent p) s = .next (if x.slot = none then t else t.raise .frameSkipped))

/-- The end of a STREAM port's latch gap finishes its send: the waiting frame's send begins, or the port is IDLE. The
end of a CONFIRMED port's marker begins the echo wait with its timeout of 2 ms, in a send and in a probe, and finishes
a send whose echo is not checked. A DARK port goes on to its dark frame, and reports dark when that has been sent
(R167, R169, R171, R173, R174). The fields that say what a port does on its pins are the model's (log entry 11). A send
goes out pixel 0 first, red, green, blue, each most significant bit first, and on a CONFIRMED port the marker after it,
and lasts as the table of R162 gives. What stands on each S pin follows from the port's type and from the shift, the
dark frame's included: low on a pin that the type does not use, on every pin of a port that has gone dark, and on all
of them outside ACTIVE and DRAINING (R161, R162, R168, R169, R173, R174; a used pin at rest by log entry 28). -/
def Obligations.ShiftsEnd : Prop :=
  (∀ (t : PortType) (p : Fin 4) (f : PixelFrame) (count : BitVec 16),
    let byteBits : Byte → List Bool := fun v => (List.range 8).map fun i => v.getLsbD (7 - i)
    sendBits t p f count = (f.flatMap fun c => byteBits c.red ++ byteBits c.green ++ byteBits c.blue) ++
      if t = .confirmed then
        byteBits 0x5A ++ byteBits (BitVec.ofNat 8 p.val) ++ byteBits (count.extractLsb' 8 8) ++
          byteBits (count.extractLsb' 0 8)
      else []) ∧
  (∀ c : PortConfig,
    (c.type = .stream → c.slow = false → shiftMicros c = c.pixels * 30 + 300 ∧ sendMicros c = c.pixels * 30 + 300) ∧
    (c.type = .stream → c.slow = true → shiftMicros c = c.pixels * 60 + 300 ∧ sendMicros c = c.pixels * 60 + 300) ∧
    (c.type = .confirmed → shiftMicros c = c.pixels * 12 + 16 ∧ sendMicros c = c.pixels * 12 + 16 + 2000) ∧
    (c.type = .pwm → sendMicros c = 0)) ∧
  (∀ (s : State) (pin : Pin) (p : Fin 4),
    p = (match pin with
      | .s0d => 0
      | .s1d => 1
      | .s2d | .s2c | .s2e => 2
      | .s3 _ => 3) →
    let x := s.ports[p]
    let c := s.config.ports[p]
    let data := pin ∈ [.s0d, .s1d, .s2d, .s3 0] ∧ (c.type = .stream ∨ c.type = .confirmed)
    let clock := pin ∈ [.s2c, .s3 1] ∧ c.type = .confirmed
    let echo := pin ∈ [.s2e, .s3 2] ∧ c.type = .confirmed
    let channel : Fin 12 → Prop := fun k => pin = .s3 k ∧ c.type = .pwm ∧ k.val < 3 * c.pixels
    (s.running = false → s.pin pin = .low) ∧
    (¬data → ¬clock → ¬echo → (∀ k, ¬channel k) → s.pin pin = .low) ∧
    (s.running = true →
      (data → ∀ sh, x.shift = some sh → s.pin pin = .shifts (sendBits c.type p sh.frame sh.count)) ∧
      (clock → x.shift ≠ none → s.pin pin = .clocks) ∧
      (data ∨ clock → x.shift = none → s.pin pin = if x.state = .dark then .low else .rest) ∧
      (echo → x.activity = .echoWait → s.pin pin = .watched) ∧
      (echo → x.activity ≠ .echoWait → s.pin pin = if x.state = .dark then .low else .rest) ∧
      (∀ k, channel k → s.pin pin = if x.state = .dark then .low else .duty s.pwm[k]))) ∧
  ∀ (s : State) (p : Fin 4), s.running = true →
    let c := s.config.ports[p]
    let x := s.ports[p]
    let set : Port → Result := fun y => .next { s with ports := s.ports.set p y }
    let count : BitVec 16 := if c.type = .confirmed then x.sendCount + 1 else x.sendCount
    let finished : Port :=
      (match x.slot with
        | none => { x with state := .idle, activity := .none, shift := none, echoTimeout := none }
        | some f => { x with
            state := .shifting
            activity := .shifting
            shift := some ⟨f, count, ⟨s.showClock, shiftMicros c⟩⟩
            slot := none
            lastSent := some f
            refreshDeadline := some (s.showClock + BitVec.ofNat 32 c.refreshInterval)
            forced := false
            sendCount := count
            checkEcho := true
            echoTimeout := none })
    let waiting := { x with activity := .echoWait, shift := none, echoTimeout := some ⟨s.showClock, 2000⟩ }
    let dark := { x with
      activity := .darkShifting
      shift := some ⟨List.replicate c.pixels ⟨0, 0, 0⟩, x.sendCount, ⟨s.showClock, shiftMicros c⟩⟩
      echoTimeout := none }
    (c.type = .stream → x.activity = .shifting →
      (x.state = .shifting → exec (.sendFinish p) s = set finished) ∧
      (x.state = .dark → exec (.sendFinish p) s = set dark)) ∧
    (c.type = .confirmed → x.activity = .shifting →
      (x.state = .shifting → x.checkEcho = true →
        exec (.markerShifted p) s = set { waiting with state := .awaitEcho }) ∧
      (x.state = .shifting → x.checkEcho = false → exec (.markerShifted p) s = set finished) ∧
      (x.state = .faulted → exec (.markerShifted p) s = set waiting) ∧
      (x.state = .dark → exec (.markerShifted p) s = set dark)) ∧
    (x.state = .dark → x.activity = .darkShifting →
      exec (.darkFrameSent p) s = set { x with activity := .none, shift := none, reportedDark := true })

/-- An echo check ends with 32 echo bits or the timeout. The echo is correct if it is 0x5A, the port number and the
send count: the failure run is 0 and the send finishes, or the probed port is IDLE with a forced send. A wrong echo or
a timeout counts a failure, forces the next frame and finishes the send; the third makes the port FAULTED with
PORT_FAULT and its first probe in a second; a failed probe leaves it FAULTED. A probe is sent at each probe deadline
(R167, R169 to R171). -/
def Obligations.EchoChecksAndProbes : Prop :=
  ∀ (s : State) (p : Fin 4), s.running = true → s.config.ports[p].type = .confirmed →
    let c := s.config.ports[p]
    let x := s.ports[p]
    let put : Port → State := fun y => { s with ports := s.ports.set p y }
    let mark : BitVec 32 := BitVec.ofNat 32 (0x5A * 2 ^ 24 + p.val * 2 ^ 16 + x.sendCount.toNat)
    let begun : Port → PixelFrame → Port := fun y f => { y with
      slot := none
      lastSent := some f
      refreshDeadline := some (s.showClock + BitVec.ofNat 32 c.refreshInterval)
      forced := false
      sendCount := y.sendCount + 1
      activity := .shifting
      shift := some ⟨f, y.sendCount + 1, ⟨s.showClock, shiftMicros c⟩⟩
      checkEcho := true
      echoTimeout := none }
    let finished : Port → Port := fun y =>
      (match y.slot with
        | none => { y with state := .idle, activity := .none, shift := none, echoTimeout := none }
        | some f => { begun y f with state := .shifting })
    let faulted := { x with
      state := .faulted
      activity := .none
      shift := none
      slot := none
      forced := false
      failureRun := 3
      probeDeadline := some (s.showClock + 1000)
      echoTimeout := none }
    let failed : State :=
      if x.failureRun < 2 then put (finished { x with failureRun := x.failureRun + 1, forced := true })
      else (put faulted).raise .portFault
    (x.state = .awaitEcho → x.activity = .echoWait →
      exec (.echoArrival p mark) s = .next (put (finished { x with failureRun := 0 })) ∧
      (∀ echo, echo ≠ mark → exec (.echoArrival p echo) s = .next failed) ∧
      exec (.echoTimeout p) s = .next failed) ∧
    (x.state = .faulted → x.activity = .echoWait →
      exec (.echoArrival p mark) s = .next (put { x with
        state := .idle, activity := .none, shift := none, failureRun := 0, probeDeadline := none, forced := true,
        echoTimeout := none }) ∧
      (∀ echo, echo ≠ mark →
        exec (.echoArrival p echo) s = .next (put { x with activity := .none, shift := none, echoTimeout := none })) ∧
      exec (.echoTimeout p) s = .next (put { x with activity := .none, shift := none, echoTimeout := none })) ∧
    (∀ d, x.state = .faulted → x.probeDeadline = some d → reached s.showClock d = true →
      exec (.probeDeadline p) s = .next (put { begun x (s.compose p) with probeDeadline := some (d + 1000) }))

/-! ## Composition and effects -/

/-- A composed frame is as long as the port's pixel count. A pixel on no segment is black; one on a segment shows the
composite of its path index, each channel scaled to floor(c × A / 255) and so at most A. The composite starts at the
base colour, current channel × level / 255, and takes the layers from the bottom up by the formulas of the four blends;
a layer that leaves the pixel uncovered leaves the value (R83, R147 to R149, R154 to R157). -/
def Obligations.FramesAreComposed : Prop :=
  (∀ (s : State) (p : Fin 4) (k : Nat),
    (s.compose p).length = s.config.ports[p].pixels ∧
    (k < s.config.ports[p].pixels → (s.compose p)[k]? = some (s.pixel p k)) ∧
    ((∀ g ∈ s.config.segments, ¬(g.port = p ∧ g.first ≤ k ∧ k < g.first + g.count)) → s.pixel p k = ⟨0, 0, 0⟩) ∧
    (∀ (pre post : List Segment) (g : Segment), s.config.segments = pre ++ g :: post →
      (∀ h ∈ pre, ¬(h.port = p ∧ h.first ≤ k ∧ k < h.first + h.count)) →
      g.port = p ∧ g.first ≤ k ∧ k < g.first + g.count →
      let n := (s.config.segments.map Segment.count).sum
      let i := (pre.map Segment.count).sum + (if g.reversed then g.first + g.count - 1 - k else k - g.first)
      let c := composite s.base s.stack.layers n i
      (s.pixel p k).red.toNat = c.red.toNat * s.level.a.toNat / 255 ∧
      (s.pixel p k).green.toNat = c.green.toNat * s.level.a.toNat / 255 ∧
      (s.pixel p k).blue.toNat = c.blue.toNat * s.level.a.toNat / 255) ∧
    (s.pixel p k).red.toNat ≤ s.level.a.toNat ∧ (s.pixel p k).green.toNat ≤ s.level.a.toNat ∧
    (s.pixel p k).blue.toNat ≤ s.level.a.toNat) ∧
  (∀ (b : Base) (n i : Nat),
    (composite b [] n i).red.toNat = b.current.colour.red.toNat * b.current.level.toNat / 255 ∧
    (composite b [] n i).green.toNat = b.current.colour.green.toNat * b.current.level.toNat / 255 ∧
    (composite b [] n i).blue.toNat = b.current.colour.blue.toNat * b.current.level.toNat / 255) ∧
  (∀ (b : Base) (below : List Layer) (l : Layer) (n i : Nat),
    let v := composite b below n i
    (l.look n i = none → composite b (below ++ [l]) n i = v) ∧
    (∀ c, l.look n i = some c → composite b (below ++ [l]) n i =
      ⟨blendChannel l.shape.blend v.red c.red l.opacity, blendChannel l.shape.blend v.green c.green l.opacity,
        blendChannel l.shape.blend v.blue c.blue l.opacity⟩)) ∧
  (∀ below l o : Byte,
    ((blendChannel .replace below l o).toNat : Int) =
      below.toNat + (((l.toNat : Int) - below.toNat) * o.toNat).tdiv 255 ∧
    (blendChannel .add below l o).toNat = min 255 (below.toNat + l.toNat * o.toNat / 255) ∧
    (blendChannel .max below l o).toNat = max below.toNat (l.toNat * o.toNat / 255) ∧
    (blendChannel .dim below l o).toNat = below.toNat * (255 - (255 - l.toNat) * o.toNat / 255) / 255)

/-- BREATHE covers every pixel with the one colour of its factor t, which rises to mid-run and falls back, and whose
final look is B; the table of R142 for period 200, and the wrap from phase 199. HOLD covers every pixel with A, and
FADE with a + trunc((b − a) × p / period), B at the end. -/
def Obligations.BreatheHoldAndFade : Prop :=
  (∀ (l : Layer) (n i : Nat), 0 < l.shape.period.toNat → l.phase ≤ l.shape.period.toNat →
    let a := l.shape.colourA
    let b := l.shape.colourB
    let period := l.shape.period.toNat
    let factor : Nat → Nat := fun p => if 2 * p ≤ period then 510 * p / period else 510 * (period - p) / period
    let mixed : Colour → Colour → Nat → Nat → Colour → Prop := fun x y j t c =>
      (c.red.toNat : Int) = x.red.toNat + (((y.red.toNat : Int) - x.red.toNat) * j).tdiv t ∧
      (c.green.toNat : Int) = x.green.toNat + (((y.green.toNat : Int) - x.green.toNat) * j).tdiv t ∧
      (c.blue.toNat : Int) = x.blue.toNat + (((y.blue.toNat : Int) - x.blue.toNat) * j).tdiv t
    (l.shape.effect = .breathe →
      (∃ c, l.look n i = some c ∧ mixed b a (factor l.phase) 255 c) ∧
      factor 0 = 0 ∧ factor period = 0 ∧ factor l.phase ≤ 255 ∧ (2 * l.phase = period → factor l.phase = 255) ∧
      (∀ p, p ≤ l.phase → 2 * l.phase ≤ period → factor p ≤ factor l.phase) ∧
      (∀ p, p ≤ l.phase → period < 2 * p → factor l.phase ≤ factor p) ∧
      (l.phase = period → l.look n i = some b)) ∧
    (l.shape.effect = .hold → l.look n i = some a) ∧
    (l.shape.effect = .fade → (∃ c, l.look n i = some c ∧ mixed a b l.phase period c) ∧
      (l.phase = period → l.look n i = some b))) ∧
  (∀ (l : Layer) (n i : Nat), l.shape.effect = .breathe → l.shape.period = 200 → l.shape.colourA = ⟨200, 40, 0⟩ →
    l.shape.colourB = ⟨20, 20, 20⟩ →
    (l.phase = 0 ∨ l.phase = 200 → l.look n i = some ⟨20, 20, 20⟩) ∧
    (l.phase = 50 ∨ l.phase = 150 → l.look n i = some ⟨109, 29, 11⟩) ∧
    (l.phase = 100 → l.look n i = some ⟨200, 40, 0⟩) ∧
    (l.phase = 199 → l.look n i = some (glideColour ⟨20, 20, 20⟩ ⟨200, 40, 0⟩ 2 255)))

/-- SWEEP covers the pixels whose effect index is below the front, the leading `width` of them in A and the trail in B,
nothing at phase 0, and the whole path in B at the end; a reversed layer shows the same from the far end; the table of
R141. -/
def Obligations.Sweep : Prop :=
  (∀ (l : Layer) (n i : Nat), l.shape.effect = .sweep → 0 < l.shape.period.toNat → i < n →
    let e := if l.reverse then n - 1 - i else i
    let front := n * l.phase / l.shape.period.toNat
    (l.phase < l.shape.period.toNat → e < front →
      l.look n i = some (if front - e ≤ l.shape.width.toNat then l.shape.colourA else l.shape.colourB)) ∧
    (l.phase < l.shape.period.toNat → front ≤ e → l.look n i = none) ∧
    (l.phase = 0 → l.look n i = none) ∧
    (l.phase < l.shape.period.toNat → e < front → l.shape.width = 0 → l.look n i = some l.shape.colourB) ∧
    (l.phase = l.shape.period.toNat → l.look n i = some l.shape.colourB)) ∧
  (∀ (l : Layer), l.shape.effect = .sweep → l.shape.period = 100 → l.shape.width = 3 →
    let a := some l.shape.colourA
    let b := some l.shape.colourB
    let row : List (Option Colour) :=
      if l.phase = 0 then List.replicate 10 none
      else if l.phase = 10 then a :: List.replicate 9 none
      else if l.phase = 45 then b :: a :: a :: a :: List.replicate 6 none
      else if l.phase = 99 then b :: b :: b :: b :: b :: b :: a :: a :: a :: [none]
      else List.replicate 10 b
    l.phase = 0 ∨ l.phase = 10 ∨ l.phase = 45 ∨ l.phase = 99 ∨ l.phase = 100 →
      (List.range 10).map (l.look 10) = if l.reverse then row.reverse else row)

/-- CHASE covers the whole path: A where (e − G) mod N is below the larger of the width and 1, that is on a band that
starts at the front G and wraps round, and B elsewhere; a width of 0 gives one pixel, a width of N or more all of them;
the final look is that of phase 0; the examples of R143. -/
def Obligations.Chase : Prop :=
  (∀ (l : Layer) (n i : Nat), l.shape.effect = .chase → 0 < l.shape.period.toNat → i < n →
    l.phase ≤ l.shape.period.toNat →
    let e := if l.reverse then n - 1 - i else i
    let front := n * l.phase / l.shape.period.toNat
    let band := max l.shape.width.toNat 1
    ((((e : Int) - front) % n).toNat < band → l.look n i = some l.shape.colourA) ∧
    (band ≤ (((e : Int) - front) % n).toNat → l.look n i = some l.shape.colourB) ∧
    ((((e : Int) - front) % n).toNat < band ↔ ∃ k, k < band ∧ e = (front + k) % n) ∧
    (l.shape.width = 0 → e = front % n → l.look n i = some l.shape.colourA) ∧
    (l.shape.width = 0 → e ≠ front % n → l.look n i = some l.shape.colourB) ∧
    (n ≤ l.shape.width.toNat → l.look n i = some l.shape.colourA) ∧
    (l.phase = 0 → front = 0) ∧ (l.phase = l.shape.period.toNat → front = n) ∧
    (l.phase = l.shape.period.toNat → l.look n i = { l with phase := 0 }.look n i)) ∧
  (∀ (l : Layer), l.shape.effect = .chase → l.shape.period = 80 → l.shape.width = 2 → l.reverse = false →
    let a := some l.shape.colourA
    let b := some l.shape.colourB
    (l.phase = 30 → (List.range 8).map (l.look 8) = [b, b, b, a, a, b, b, b]) ∧
    (l.phase = 75 → (List.range 8).map (l.look 8) = [a, b, b, b, b, b, b, a]))
end

