-- ==== Sys2Proof/Laws/State.lean ====
section
/-! SUPPORT. The fields of `State` that each shared operation leaves alone, and what the plain updates write, for
`simp`: one lemma per operation. -/

namespace Sys2Proof.Machine

@[simp] theorem State.raise_frame (s : State) (n : Notice) :
    (s.raise n).nodeState = s.nodeState ∧ (s.raise n).config = s.config ∧ (s.raise n).showClock = s.showClock ∧
    (s.raise n).drainDeadline = s.drainDeadline ∧ (s.raise n).bus = s.bus ∧ (s.raise n).intake = s.intake ∧
    (s.raise n).roster = s.roster ∧ (s.raise n).level = s.level ∧ (s.raise n).supply = s.supply ∧
    (s.raise n).cues = s.cues ∧ (s.raise n).stack = s.stack ∧ (s.raise n).base = s.base ∧
    (s.raise n).ports = s.ports ∧ (s.raise n).pwm = s.pwm ∧ (s.raise n).pending = s.pending := by
  simp [State.raise]

@[simp] theorem State.raiseIf_frame (s : State) (c : Bool) (n : Notice) :
    (s.raiseIf c n).nodeState = s.nodeState ∧ (s.raiseIf c n).config = s.config ∧
    (s.raiseIf c n).showClock = s.showClock ∧ (s.raiseIf c n).drainDeadline = s.drainDeadline ∧
    (s.raiseIf c n).bus = s.bus ∧ (s.raiseIf c n).intake = s.intake ∧ (s.raiseIf c n).roster = s.roster ∧
    (s.raiseIf c n).level = s.level ∧ (s.raiseIf c n).supply = s.supply ∧ (s.raiseIf c n).cues = s.cues ∧
    (s.raiseIf c n).stack = s.stack ∧ (s.raiseIf c n).base = s.base ∧ (s.raiseIf c n).ports = s.ports ∧
    (s.raiseIf c n).pwm = s.pwm ∧ (s.raiseIf c n).pending = s.pending := by
  cases c <;> simp [State.raiseIf]

@[simp] theorem State.clearNotices_frame (s : State) (mask : BitVec 16) :
    (s.clearNotices mask).nodeState = s.nodeState ∧ (s.clearNotices mask).config = s.config ∧
    (s.clearNotices mask).showClock = s.showClock ∧ (s.clearNotices mask).drainDeadline = s.drainDeadline ∧
    (s.clearNotices mask).bus = s.bus ∧ (s.clearNotices mask).out = s.out ∧
    (s.clearNotices mask).intake = s.intake ∧ (s.clearNotices mask).roster = s.roster ∧
    (s.clearNotices mask).level = s.level ∧ (s.clearNotices mask).supply = s.supply ∧
    (s.clearNotices mask).cues = s.cues ∧ (s.clearNotices mask).stack = s.stack ∧
    (s.clearNotices mask).base = s.base ∧ (s.clearNotices mask).ports = s.ports ∧
    (s.clearNotices mask).pwm = s.pwm ∧ (s.clearNotices mask).pending = s.pending := by
  simp [State.clearNotices]

@[simp] theorem State.request_frame (s : State) (r : Request) :
    (s.request r).nodeState = s.nodeState ∧ (s.request r).config = s.config ∧
    (s.request r).showClock = s.showClock ∧ (s.request r).drainDeadline = s.drainDeadline ∧
    (s.request r).bus = s.bus ∧ (s.request r).intake = s.intake ∧ (s.request r).roster = s.roster ∧
    (s.request r).level = s.level ∧ (s.request r).supply = s.supply ∧ (s.request r).cues = s.cues ∧
    (s.request r).stack = s.stack ∧ (s.request r).base = s.base ∧ (s.request r).ports = s.ports ∧
    (s.request r).pwm = s.pwm ∧ (s.request r).pending = s.pending := by
  unfold State.request; (try dsimp only); (repeat' split) <;> simp

@[simp] theorem State.discardQueue_frame (s : State) :
    (s.discardQueue).nodeState = s.nodeState ∧ (s.discardQueue).config = s.config ∧
    (s.discardQueue).showClock = s.showClock ∧ (s.discardQueue).drainDeadline = s.drainDeadline ∧
    (s.discardQueue).bus = s.bus ∧ (s.discardQueue).intake = s.intake ∧ (s.discardQueue).roster = s.roster ∧
    (s.discardQueue).level = s.level ∧ (s.discardQueue).supply = s.supply ∧ (s.discardQueue).cues = s.cues ∧
    (s.discardQueue).stack = s.stack ∧ (s.discardQueue).base = s.base ∧ (s.discardQueue).ports = s.ports ∧
    (s.discardQueue).pwm = s.pwm ∧ (s.discardQueue).pending = s.pending := by
  unfold State.discardQueue; (try dsimp only); simp

@[simp] theorem State.settle_frame (s : State) (f : SendEntry → Option SendEntry) :
    (s.settle f).nodeState = s.nodeState ∧ (s.settle f).config = s.config ∧
    (s.settle f).showClock = s.showClock ∧ (s.settle f).drainDeadline = s.drainDeadline ∧
    (s.settle f).bus = s.bus ∧ (s.settle f).intake = s.intake ∧ (s.settle f).roster = s.roster ∧
    (s.settle f).level = s.level ∧ (s.settle f).supply = s.supply ∧ (s.settle f).cues = s.cues ∧
    (s.settle f).stack = s.stack ∧ (s.settle f).base = s.base ∧ (s.settle f).ports = s.ports ∧
    (s.settle f).pwm = s.pwm ∧ (s.settle f).status = s.status ∧ (s.settle f).pending = s.pending := by
  simp [State.settle]

@[simp] theorem State.settleVoided_frame (s : State) :
    (s.settleVoided).nodeState = s.nodeState ∧ (s.settleVoided).config = s.config ∧
    (s.settleVoided).showClock = s.showClock ∧ (s.settleVoided).drainDeadline = s.drainDeadline ∧
    (s.settleVoided).bus = s.bus ∧ (s.settleVoided).intake = s.intake ∧ (s.settleVoided).roster = s.roster ∧
    (s.settleVoided).level = s.level ∧ (s.settleVoided).supply = s.supply ∧ (s.settleVoided).cues = s.cues ∧
    (s.settleVoided).stack = s.stack ∧ (s.settleVoided).base = s.base ∧ (s.settleVoided).ports = s.ports ∧
    (s.settleVoided).pwm = s.pwm ∧ (s.settleVoided).pending = s.pending := by
  unfold State.settleVoided; simp

@[simp] theorem State.formTarget_frame (s : State) :
    (s.formTarget).nodeState = s.nodeState ∧ (s.formTarget).config = s.config ∧
    (s.formTarget).showClock = s.showClock ∧ (s.formTarget).drainDeadline = s.drainDeadline ∧
    (s.formTarget).bus = s.bus ∧ (s.formTarget).out = s.out ∧ (s.formTarget).intake = s.intake ∧
    (s.formTarget).roster = s.roster ∧ (s.formTarget).supply = s.supply ∧ (s.formTarget).cues = s.cues ∧
    (s.formTarget).stack = s.stack ∧ (s.formTarget).base = s.base ∧ (s.formTarget).ports = s.ports ∧
    (s.formTarget).pwm = s.pwm ∧ (s.formTarget).status = s.status ∧ (s.formTarget).pending = s.pending := by
  simp [State.formTarget]

@[simp] theorem State.deliver_frame (s : State) (e : IntakeEntry) :
    (s.deliver e).nodeState = s.nodeState ∧ (s.deliver e).config = s.config ∧
    (s.deliver e).showClock = s.showClock ∧ (s.deliver e).drainDeadline = s.drainDeadline ∧
    (s.deliver e).bus = s.bus ∧ (s.deliver e).roster = s.roster ∧ (s.deliver e).level = s.level ∧
    (s.deliver e).supply = s.supply ∧ (s.deliver e).cues = s.cues ∧ (s.deliver e).stack = s.stack ∧
    (s.deliver e).base = s.base ∧ (s.deliver e).ports = s.ports ∧ (s.deliver e).pwm = s.pwm ∧
    (s.deliver e).pending = s.pending := by
  unfold State.deliver; (try dsimp only); (repeat' split) <;> simp

@[simp] theorem State.complete_frame (s : State) (effect : State → State) :
    (s.complete effect).nodeState = (effect { s with intake := { s.intake with slot := none } }).nodeState ∧
    (s.complete effect).config = (effect { s with intake := { s.intake with slot := none } }).config ∧
    (s.complete effect).showClock = (effect { s with intake := { s.intake with slot := none } }).showClock ∧
    (s.complete effect).drainDeadline = (effect { s with intake := { s.intake with slot := none } }).drainDeadline ∧
    (s.complete effect).bus = (effect { s with intake := { s.intake with slot := none } }).bus ∧
    (s.complete effect).out = (effect { s with intake := { s.intake with slot := none } }).out ∧
    (s.complete effect).roster = (effect { s with intake := { s.intake with slot := none } }).roster ∧
    (s.complete effect).level = (effect { s with intake := { s.intake with slot := none } }).level ∧
    (s.complete effect).supply = (effect { s with intake := { s.intake with slot := none } }).supply ∧
    (s.complete effect).cues = (effect { s with intake := { s.intake with slot := none } }).cues ∧
    (s.complete effect).stack = (effect { s with intake := { s.intake with slot := none } }).stack ∧
    (s.complete effect).base = (effect { s with intake := { s.intake with slot := none } }).base ∧
    (s.complete effect).ports = (effect { s with intake := { s.intake with slot := none } }).ports ∧
    (s.complete effect).pwm = (effect { s with intake := { s.intake with slot := none } }).pwm ∧
    (s.complete effect).status = (effect { s with intake := { s.intake with slot := none } }).status ∧
    (s.complete effect).pending = (effect { s with intake := { s.intake with slot := none } }).pending := by
  simp [State.complete]

@[simp] theorem State.setPeer_frame (s : State) (i : Fin 31) (p : Option Peer) :
    (s.setPeer i p).nodeState = s.nodeState ∧ (s.setPeer i p).config = s.config ∧
    (s.setPeer i p).showClock = s.showClock ∧ (s.setPeer i p).drainDeadline = s.drainDeadline ∧
    (s.setPeer i p).bus = s.bus ∧ (s.setPeer i p).out = s.out ∧ (s.setPeer i p).intake = s.intake ∧
    (s.setPeer i p).level = s.level ∧ (s.setPeer i p).supply = s.supply ∧ (s.setPeer i p).cues = s.cues ∧
    (s.setPeer i p).stack = s.stack ∧ (s.setPeer i p).base = s.base ∧ (s.setPeer i p).ports = s.ports ∧
    (s.setPeer i p).pwm = s.pwm ∧ (s.setPeer i p).status = s.status ∧ (s.setPeer i p).pending = s.pending := by
  simp [State.setPeer]

@[simp] theorem State.setPort_frame (s : State) (p : Fin 4) (x : Port) :
    (s.setPort p x).nodeState = s.nodeState ∧ (s.setPort p x).config = s.config ∧
    (s.setPort p x).showClock = s.showClock ∧ (s.setPort p x).drainDeadline = s.drainDeadline ∧
    (s.setPort p x).bus = s.bus ∧ (s.setPort p x).out = s.out ∧ (s.setPort p x).intake = s.intake ∧
    (s.setPort p x).roster = s.roster ∧ (s.setPort p x).level = s.level ∧ (s.setPort p x).supply = s.supply ∧
    (s.setPort p x).cues = s.cues ∧ (s.setPort p x).stack = s.stack ∧ (s.setPort p x).base = s.base ∧
    (s.setPort p x).pwm = s.pwm ∧ (s.setPort p x).status = s.status ∧ (s.setPort p x).pending = s.pending := by
  simp [State.setPort]

@[simp] theorem State.post_frame (s : State) (p : Fin 4) (f : PixelFrame) :
    (s.post p f).nodeState = s.nodeState ∧ (s.post p f).config = s.config ∧
    (s.post p f).showClock = s.showClock ∧ (s.post p f).drainDeadline = s.drainDeadline ∧
    (s.post p f).bus = s.bus ∧ (s.post p f).intake = s.intake ∧ (s.post p f).roster = s.roster ∧
    (s.post p f).level = s.level ∧ (s.post p f).supply = s.supply ∧ (s.post p f).cues = s.cues ∧
    (s.post p f).stack = s.stack ∧ (s.post p f).base = s.base ∧ (s.post p f).pending = s.pending := by
  unfold State.post; (try dsimp only); (repeat' split) <;> simp

@[simp] theorem State.frameEvent_frame (s : State) (p : Fin 4) :
    (s.frameEvent p).nodeState = s.nodeState ∧ (s.frameEvent p).config = s.config ∧
    (s.frameEvent p).showClock = s.showClock ∧ (s.frameEvent p).drainDeadline = s.drainDeadline ∧
    (s.frameEvent p).bus = s.bus ∧ (s.frameEvent p).intake = s.intake ∧ (s.frameEvent p).roster = s.roster ∧
    (s.frameEvent p).level = s.level ∧ (s.frameEvent p).supply = s.supply ∧ (s.frameEvent p).cues = s.cues ∧
    (s.frameEvent p).stack = s.stack ∧ (s.frameEvent p).base = s.base ∧ (s.frameEvent p).pending = s.pending := by
  unfold State.frameEvent; (try dsimp only); (repeat' split) <;> simp

@[simp] theorem State.echoFailed_frame (s : State) (p : Fin 4) :
    (s.echoFailed p).nodeState = s.nodeState ∧ (s.echoFailed p).config = s.config ∧
    (s.echoFailed p).showClock = s.showClock ∧ (s.echoFailed p).drainDeadline = s.drainDeadline ∧
    (s.echoFailed p).bus = s.bus ∧ (s.echoFailed p).intake = s.intake ∧ (s.echoFailed p).roster = s.roster ∧
    (s.echoFailed p).level = s.level ∧ (s.echoFailed p).supply = s.supply ∧ (s.echoFailed p).cues = s.cues ∧
    (s.echoFailed p).stack = s.stack ∧ (s.echoFailed p).base = s.base ∧ (s.echoFailed p).pwm = s.pwm ∧
    (s.echoFailed p).pending = s.pending := by
  unfold State.echoFailed; (try dsimp only); (repeat' split) <;> simp

@[simp] theorem State.darkPorts_frame (s : State) :
    (s.darkPorts).nodeState = s.nodeState ∧ (s.darkPorts).config = s.config ∧
    (s.darkPorts).showClock = s.showClock ∧ (s.darkPorts).drainDeadline = s.drainDeadline ∧
    (s.darkPorts).bus = s.bus ∧ (s.darkPorts).out = s.out ∧ (s.darkPorts).intake = s.intake ∧
    (s.darkPorts).roster = s.roster ∧ (s.darkPorts).level = s.level ∧ (s.darkPorts).supply = s.supply ∧
    (s.darkPorts).cues = s.cues ∧ (s.darkPorts).stack = s.stack ∧ (s.darkPorts).base = s.base ∧
    (s.darkPorts).status = s.status ∧ (s.darkPorts).pending = s.pending := by
  simp [State.darkPorts]

@[simp] theorem State.returnPorts_frame (s : State) :
    (s.returnPorts).nodeState = s.nodeState ∧ (s.returnPorts).config = s.config ∧
    (s.returnPorts).showClock = s.showClock ∧ (s.returnPorts).drainDeadline = s.drainDeadline ∧
    (s.returnPorts).bus = s.bus ∧ (s.returnPorts).out = s.out ∧ (s.returnPorts).intake = s.intake ∧
    (s.returnPorts).roster = s.roster ∧ (s.returnPorts).level = s.level ∧ (s.returnPorts).supply = s.supply ∧
    (s.returnPorts).cues = s.cues ∧ (s.returnPorts).stack = s.stack ∧ (s.returnPorts).base = s.base ∧
    (s.returnPorts).pwm = s.pwm ∧ (s.returnPorts).status = s.status ∧ (s.returnPorts).pending = s.pending := by
  simp [State.returnPorts]

@[simp] theorem State.beginDarkPhase_frame (s : State) :
    (s.beginDarkPhase).config = s.config ∧ (s.beginDarkPhase).showClock = s.showClock ∧
    (s.beginDarkPhase).bus = s.bus ∧ (s.beginDarkPhase).out = s.out ∧ (s.beginDarkPhase).intake = s.intake ∧
    (s.beginDarkPhase).roster = s.roster ∧ (s.beginDarkPhase).level = s.level ∧
    (s.beginDarkPhase).supply = s.supply ∧ (s.beginDarkPhase).cues = s.cues ∧
    (s.beginDarkPhase).ports = s.ports ∧ (s.beginDarkPhase).pwm = s.pwm ∧ (s.beginDarkPhase).status = s.status ∧
    (s.beginDarkPhase).pending = s.pending := by
  simp [State.beginDarkPhase]

@[simp] theorem State.darkCheck_frame (s : State) :
    (s.darkCheck).config = s.config ∧ (s.darkCheck).showClock = s.showClock ∧
    (s.darkCheck).drainDeadline = s.drainDeadline ∧ (s.darkCheck).bus = s.bus ∧ (s.darkCheck).out = s.out ∧
    (s.darkCheck).intake = s.intake ∧ (s.darkCheck).roster = s.roster ∧ (s.darkCheck).level = s.level ∧
    (s.darkCheck).supply = s.supply ∧ (s.darkCheck).cues = s.cues ∧ (s.darkCheck).stack = s.stack ∧
    (s.darkCheck).base = s.base ∧ (s.darkCheck).status = s.status ∧ (s.darkCheck).pending = s.pending := by
  unfold State.darkCheck; (try dsimp only); (repeat' split) <;> simp

@[simp] theorem State.drainCheck_frame (s : State) :
    (s.drainCheck).config = s.config ∧ (s.drainCheck).showClock = s.showClock ∧ (s.drainCheck).bus = s.bus ∧
    (s.drainCheck).out = s.out ∧ (s.drainCheck).intake = s.intake ∧ (s.drainCheck).roster = s.roster ∧
    (s.drainCheck).level = s.level ∧ (s.drainCheck).supply = s.supply ∧ (s.drainCheck).cues = s.cues ∧
    (s.drainCheck).status = s.status ∧ (s.drainCheck).pending = s.pending := by
  unfold State.drainCheck; (repeat' split) <;> simp

@[simp] theorem State.fallAsleep_frame (s : State) :
    (s.fallAsleep).config = s.config ∧ (s.fallAsleep).showClock = s.showClock ∧ (s.fallAsleep).ports = s.ports ∧
    (s.fallAsleep).pwm = s.pwm ∧ (s.fallAsleep).status = s.status ∧ (s.fallAsleep).pending = s.pending := by
  simp [State.fallAsleep]

@[simp] theorem State.setLayers_frame (s : State) (ls : List Layer) :
    (s.setLayers ls).nodeState = s.nodeState ∧ (s.setLayers ls).config = s.config ∧
    (s.setLayers ls).showClock = s.showClock ∧ (s.setLayers ls).drainDeadline = s.drainDeadline ∧
    (s.setLayers ls).bus = s.bus ∧ (s.setLayers ls).out = s.out ∧ (s.setLayers ls).intake = s.intake ∧
    (s.setLayers ls).roster = s.roster ∧ (s.setLayers ls).level = s.level ∧ (s.setLayers ls).supply = s.supply ∧
    (s.setLayers ls).cues = s.cues ∧ (s.setLayers ls).base = s.base ∧ (s.setLayers ls).ports = s.ports ∧
    (s.setLayers ls).pwm = s.pwm ∧ (s.setLayers ls).status = s.status ∧ (s.setLayers ls).pending = s.pending := by
  simp [State.setLayers]

@[simp] theorem State.requestHandoff_frame (s : State) (l : Layer) :
    (s.requestHandoff l).nodeState = s.nodeState ∧ (s.requestHandoff l).config = s.config ∧
    (s.requestHandoff l).showClock = s.showClock ∧ (s.requestHandoff l).drainDeadline = s.drainDeadline ∧
    (s.requestHandoff l).bus = s.bus ∧ (s.requestHandoff l).intake = s.intake ∧
    (s.requestHandoff l).roster = s.roster ∧ (s.requestHandoff l).level = s.level ∧
    (s.requestHandoff l).supply = s.supply ∧ (s.requestHandoff l).cues = s.cues ∧
    (s.requestHandoff l).stack = s.stack ∧ (s.requestHandoff l).base = s.base ∧
    (s.requestHandoff l).ports = s.ports ∧ (s.requestHandoff l).pwm = s.pwm ∧
    (s.requestHandoff l).pending = s.pending := by
  unfold State.requestHandoff; (repeat' split) <;> simp

@[simp] theorem State.giveHandoff_frame (s : State) (l : Layer) :
    (s.giveHandoff l).nodeState = s.nodeState ∧ (s.giveHandoff l).config = s.config ∧
    (s.giveHandoff l).showClock = s.showClock ∧ (s.giveHandoff l).drainDeadline = s.drainDeadline ∧
    (s.giveHandoff l).bus = s.bus ∧ (s.giveHandoff l).intake = s.intake ∧ (s.giveHandoff l).roster = s.roster ∧
    (s.giveHandoff l).level = s.level ∧ (s.giveHandoff l).supply = s.supply ∧ (s.giveHandoff l).cues = s.cues ∧
    (s.giveHandoff l).base = s.base ∧ (s.giveHandoff l).ports = s.ports ∧ (s.giveHandoff l).pwm = s.pwm ∧
    (s.giveHandoff l).pending = s.pending := by
  unfold State.giveHandoff; simp

@[simp] theorem State.checkDue_frame (s : State) (k : CueKey) :
    (s.checkDue k).nodeState = s.nodeState ∧ (s.checkDue k).config = s.config ∧
    (s.checkDue k).showClock = s.showClock ∧ (s.checkDue k).drainDeadline = s.drainDeadline ∧
    (s.checkDue k).bus = s.bus ∧ (s.checkDue k).intake = s.intake ∧ (s.checkDue k).roster = s.roster ∧
    (s.checkDue k).level = s.level ∧ (s.checkDue k).supply = s.supply ∧ (s.checkDue k).cues = s.cues ∧
    (s.checkDue k).base = s.base ∧ (s.checkDue k).ports = s.ports ∧ (s.checkDue k).pwm = s.pwm ∧
    (s.checkDue k).pending = s.pending := by
  unfold State.checkDue; (repeat' split) <;> simp

@[simp] theorem State.placeNew_frame (s : State) (l : Layer) :
    (s.placeNew l).nodeState = s.nodeState ∧ (s.placeNew l).config = s.config ∧
    (s.placeNew l).showClock = s.showClock ∧ (s.placeNew l).drainDeadline = s.drainDeadline ∧
    (s.placeNew l).bus = s.bus ∧ (s.placeNew l).intake = s.intake ∧ (s.placeNew l).roster = s.roster ∧
    (s.placeNew l).level = s.level ∧ (s.placeNew l).supply = s.supply ∧ (s.placeNew l).cues = s.cues ∧
    (s.placeNew l).base = s.base ∧ (s.placeNew l).ports = s.ports ∧ (s.placeNew l).pwm = s.pwm ∧
    (s.placeNew l).pending = s.pending := by
  unfold State.placeNew; simp

@[simp] theorem State.losersHandoff_frame (s : State) (l : Layer) :
    (s.losersHandoff l).nodeState = s.nodeState ∧ (s.losersHandoff l).config = s.config ∧
    (s.losersHandoff l).showClock = s.showClock ∧ (s.losersHandoff l).drainDeadline = s.drainDeadline ∧
    (s.losersHandoff l).bus = s.bus ∧ (s.losersHandoff l).intake = s.intake ∧
    (s.losersHandoff l).roster = s.roster ∧ (s.losersHandoff l).level = s.level ∧
    (s.losersHandoff l).supply = s.supply ∧ (s.losersHandoff l).cues = s.cues ∧
    (s.losersHandoff l).stack = s.stack ∧ (s.losersHandoff l).base = s.base ∧
    (s.losersHandoff l).ports = s.ports ∧ (s.losersHandoff l).pwm = s.pwm ∧
    (s.losersHandoff l).pending = s.pending := by
  unfold State.losersHandoff; (repeat' split) <;> simp

@[simp] theorem State.insertFull_frame (s : State) (l candidate : Layer) :
    (s.insertFull l candidate).nodeState = s.nodeState ∧ (s.insertFull l candidate).config = s.config ∧
    (s.insertFull l candidate).showClock = s.showClock ∧
    (s.insertFull l candidate).drainDeadline = s.drainDeadline ∧ (s.insertFull l candidate).bus = s.bus ∧
    (s.insertFull l candidate).intake = s.intake ∧ (s.insertFull l candidate).roster = s.roster ∧
    (s.insertFull l candidate).level = s.level ∧ (s.insertFull l candidate).supply = s.supply ∧
    (s.insertFull l candidate).cues = s.cues ∧ (s.insertFull l candidate).base = s.base ∧
    (s.insertFull l candidate).ports = s.ports ∧ (s.insertFull l candidate).pwm = s.pwm ∧
    (s.insertFull l candidate).pending = s.pending := by
  unfold State.insertFull; (repeat' split) <;> simp

@[simp] theorem State.insertLayer_frame (s : State) (l : Layer) :
    (s.insertLayer l).nodeState = s.nodeState ∧ (s.insertLayer l).config = s.config ∧
    (s.insertLayer l).showClock = s.showClock ∧ (s.insertLayer l).drainDeadline = s.drainDeadline ∧
    (s.insertLayer l).bus = s.bus ∧ (s.insertLayer l).intake = s.intake ∧ (s.insertLayer l).roster = s.roster ∧
    (s.insertLayer l).level = s.level ∧ (s.insertLayer l).supply = s.supply ∧ (s.insertLayer l).cues = s.cues ∧
    (s.insertLayer l).base = s.base ∧ (s.insertLayer l).ports = s.ports ∧ (s.insertLayer l).pwm = s.pwm ∧
    (s.insertLayer l).pending = s.pending := by
  unfold State.insertLayer; (repeat' split) <;> simp

@[simp] theorem State.startCue_frame (s : State) (c : CueRecord) :
    (s.startCue c).nodeState = s.nodeState ∧ (s.startCue c).config = s.config ∧
    (s.startCue c).showClock = s.showClock ∧ (s.startCue c).drainDeadline = s.drainDeadline ∧
    (s.startCue c).bus = s.bus ∧ (s.startCue c).intake = s.intake ∧ (s.startCue c).roster = s.roster ∧
    (s.startCue c).level = s.level ∧ (s.startCue c).supply = s.supply ∧ (s.startCue c).base = s.base ∧
    (s.startCue c).ports = s.ports ∧ (s.startCue c).pwm = s.pwm ∧ (s.startCue c).pending = s.pending := by
  unfold State.startCue; (try dsimp only); simp

@[simp] theorem State.enterDelaying_frame (s : State) (c : CueRecord) :
    (s.enterDelaying c).nodeState = s.nodeState ∧ (s.enterDelaying c).config = s.config ∧
    (s.enterDelaying c).showClock = s.showClock ∧ (s.enterDelaying c).drainDeadline = s.drainDeadline ∧
    (s.enterDelaying c).bus = s.bus ∧ (s.enterDelaying c).intake = s.intake ∧
    (s.enterDelaying c).roster = s.roster ∧ (s.enterDelaying c).level = s.level ∧
    (s.enterDelaying c).supply = s.supply ∧ (s.enterDelaying c).base = s.base ∧
    (s.enterDelaying c).ports = s.ports ∧ (s.enterDelaying c).pwm = s.pwm ∧
    (s.enterDelaying c).pending = s.pending := by
  unfold State.enterDelaying; (repeat' split) <;> simp

@[simp] theorem State.arm_frame (s : State) (c : CueRecord) :
    (s.arm c).nodeState = s.nodeState ∧ (s.arm c).config = s.config ∧ (s.arm c).showClock = s.showClock ∧
    (s.arm c).drainDeadline = s.drainDeadline ∧ (s.arm c).bus = s.bus ∧ (s.arm c).intake = s.intake ∧
    (s.arm c).roster = s.roster ∧ (s.arm c).level = s.level ∧ (s.arm c).supply = s.supply ∧
    (s.arm c).base = s.base ∧ (s.arm c).ports = s.ports ∧ (s.arm c).pwm = s.pwm ∧ (s.arm c).pending = s.pending := by
  unfold State.arm; (try dsimp only); (repeat' split) <;> simp

@[simp] theorem State.arrive_frame (s : State) (c : CueRecord) (z : ZoneNo) :
    (s.arrive c z).nodeState = s.nodeState ∧ (s.arrive c z).config = s.config ∧
    (s.arrive c z).showClock = s.showClock ∧ (s.arrive c z).drainDeadline = s.drainDeadline ∧
    (s.arrive c z).bus = s.bus ∧ (s.arrive c z).intake = s.intake ∧ (s.arrive c z).roster = s.roster ∧
    (s.arrive c z).level = s.level ∧ (s.arrive c z).supply = s.supply ∧ (s.arrive c z).base = s.base ∧
    (s.arrive c z).ports = s.ports ∧ (s.arrive c z).pwm = s.pwm ∧ (s.arrive c z).pending = s.pending := by
  unfold State.arrive; (try dsimp only); (repeat' split) <;> simp

@[simp] theorem State.restyle_frame (s : State) (l : Layer) (sh : Shape) :
    (s.restyle l sh).nodeState = s.nodeState ∧ (s.restyle l sh).config = s.config ∧
    (s.restyle l sh).showClock = s.showClock ∧ (s.restyle l sh).drainDeadline = s.drainDeadline ∧
    (s.restyle l sh).bus = s.bus ∧ (s.restyle l sh).intake = s.intake ∧ (s.restyle l sh).roster = s.roster ∧
    (s.restyle l sh).level = s.level ∧ (s.restyle l sh).supply = s.supply ∧ (s.restyle l sh).cues = s.cues ∧
    (s.restyle l sh).base = s.base ∧ (s.restyle l sh).ports = s.ports ∧ (s.restyle l sh).pwm = s.pwm ∧
    (s.restyle l sh).pending = s.pending := by
  unfold State.restyle; simp

@[simp] theorem State.recall_frame (s : State) (c : CueRecord) (route : BitVec 3) (sh : Shape) (startDelay : Byte) :
    (s.recall c route sh startDelay).nodeState = s.nodeState ∧
    (s.recall c route sh startDelay).config = s.config ∧
    (s.recall c route sh startDelay).showClock = s.showClock ∧
    (s.recall c route sh startDelay).drainDeadline = s.drainDeadline ∧
    (s.recall c route sh startDelay).bus = s.bus ∧ (s.recall c route sh startDelay).intake = s.intake ∧
    (s.recall c route sh startDelay).roster = s.roster ∧ (s.recall c route sh startDelay).level = s.level ∧
    (s.recall c route sh startDelay).supply = s.supply ∧ (s.recall c route sh startDelay).base = s.base ∧
    (s.recall c route sh startDelay).ports = s.ports ∧ (s.recall c route sh startDelay).pwm = s.pwm ∧
    (s.recall c route sh startDelay).pending = s.pending := by
  unfold State.recall; (repeat' split) <;> simp

@[simp] theorem State.armNew_frame (s : State) (c : CueRecord) :
    (s.armNew c).nodeState = s.nodeState ∧ (s.armNew c).config = s.config ∧
    (s.armNew c).showClock = s.showClock ∧ (s.armNew c).drainDeadline = s.drainDeadline ∧
    (s.armNew c).bus = s.bus ∧ (s.armNew c).intake = s.intake ∧ (s.armNew c).roster = s.roster ∧
    (s.armNew c).level = s.level ∧ (s.armNew c).supply = s.supply ∧ (s.armNew c).base = s.base ∧
    (s.armNew c).ports = s.ports ∧ (s.armNew c).pwm = s.pwm ∧ (s.armNew c).pending = s.pending := by
  unfold State.armNew; simp

@[simp] theorem State.admitCall_frame (s : State) (c : CueRecord) :
    (s.admitCall c).nodeState = s.nodeState ∧ (s.admitCall c).config = s.config ∧
    (s.admitCall c).showClock = s.showClock ∧ (s.admitCall c).drainDeadline = s.drainDeadline ∧
    (s.admitCall c).bus = s.bus ∧ (s.admitCall c).intake = s.intake ∧ (s.admitCall c).roster = s.roster ∧
    (s.admitCall c).level = s.level ∧ (s.admitCall c).supply = s.supply ∧ (s.admitCall c).base = s.base ∧
    (s.admitCall c).ports = s.ports ∧ (s.admitCall c).pwm = s.pwm ∧ (s.admitCall c).pending = s.pending := by
  unfold State.admitCall; (repeat' split) <;> simp

@[simp] theorem State.callCue_frame (s : State) (key : CueKey) (route : BitVec 3) (sh : Shape) (startDelay : Byte) :
    (s.callCue key route sh startDelay).nodeState = s.nodeState ∧
    (s.callCue key route sh startDelay).config = s.config ∧
    (s.callCue key route sh startDelay).showClock = s.showClock ∧
    (s.callCue key route sh startDelay).drainDeadline = s.drainDeadline ∧
    (s.callCue key route sh startDelay).bus = s.bus ∧ (s.callCue key route sh startDelay).intake = s.intake ∧
    (s.callCue key route sh startDelay).roster = s.roster ∧
    (s.callCue key route sh startDelay).level = s.level ∧
    (s.callCue key route sh startDelay).supply = s.supply ∧ (s.callCue key route sh startDelay).base = s.base ∧
    (s.callCue key route sh startDelay).ports = s.ports ∧ (s.callCue key route sh startDelay).pwm = s.pwm ∧
    (s.callCue key route sh startDelay).pending = s.pending := by
  unfold State.callCue; (repeat' split) <;> simp

@[simp] theorem State.settleCall_frame (s : State) (key : CueKey) (route : BitVec 3) (sh : Shape) (startDelay : Byte) :
    (s.settleCall key route sh startDelay).nodeState = s.nodeState ∧
    (s.settleCall key route sh startDelay).config = s.config ∧
    (s.settleCall key route sh startDelay).showClock = s.showClock ∧
    (s.settleCall key route sh startDelay).drainDeadline = s.drainDeadline ∧
    (s.settleCall key route sh startDelay).bus = s.bus ∧
    (s.settleCall key route sh startDelay).intake = s.intake ∧
    (s.settleCall key route sh startDelay).roster = s.roster ∧
    (s.settleCall key route sh startDelay).level = s.level ∧
    (s.settleCall key route sh startDelay).supply = s.supply ∧
    (s.settleCall key route sh startDelay).base = s.base ∧
    (s.settleCall key route sh startDelay).ports = s.ports ∧
    (s.settleCall key route sh startDelay).pwm = s.pwm ∧
    (s.settleCall key route sh startDelay).pending = s.pending := by
  unfold State.settleCall; (repeat' split) <;> simp

@[simp] theorem State.settleHandoff_frame (s : State) (sender : ZoneNo) (key : CueKey) (route : BitVec 3) :
    (s.settleHandoff sender key route).nodeState = s.nodeState ∧
    (s.settleHandoff sender key route).config = s.config ∧
    (s.settleHandoff sender key route).showClock = s.showClock ∧
    (s.settleHandoff sender key route).drainDeadline = s.drainDeadline ∧
    (s.settleHandoff sender key route).bus = s.bus ∧ (s.settleHandoff sender key route).intake = s.intake ∧
    (s.settleHandoff sender key route).roster = s.roster ∧ (s.settleHandoff sender key route).level = s.level ∧
    (s.settleHandoff sender key route).supply = s.supply ∧ (s.settleHandoff sender key route).base = s.base ∧
    (s.settleHandoff sender key route).ports = s.ports ∧ (s.settleHandoff sender key route).pwm = s.pwm ∧
    (s.settleHandoff sender key route).pending = s.pending := by
  unfold State.settleHandoff; (repeat' split) <;> simp

@[simp] theorem State.signalCue_frame (z : ZoneNo) (s : State) (k : CueKey) :
    (s.signalCue z k).nodeState = s.nodeState ∧ (s.signalCue z k).config = s.config ∧
    (s.signalCue z k).showClock = s.showClock ∧ (s.signalCue z k).drainDeadline = s.drainDeadline ∧
    (s.signalCue z k).bus = s.bus ∧ (s.signalCue z k).intake = s.intake ∧ (s.signalCue z k).roster = s.roster ∧
    (s.signalCue z k).level = s.level ∧ (s.signalCue z k).supply = s.supply ∧ (s.signalCue z k).base = s.base ∧
    (s.signalCue z k).ports = s.ports ∧ (s.signalCue z k).pwm = s.pwm ∧ (s.signalCue z k).pending = s.pending := by
  unfold State.signalCue; (repeat' split) <;> simp

theorem signalKeys_frame (z : ZoneNo) (ks : List CueKey) (s : State) :
    (ks.foldl (State.signalCue z) s).nodeState = s.nodeState ∧
    (ks.foldl (State.signalCue z) s).config = s.config ∧
    (ks.foldl (State.signalCue z) s).showClock = s.showClock ∧
    (ks.foldl (State.signalCue z) s).drainDeadline = s.drainDeadline ∧
    (ks.foldl (State.signalCue z) s).bus = s.bus ∧ (ks.foldl (State.signalCue z) s).intake = s.intake ∧
    (ks.foldl (State.signalCue z) s).roster = s.roster ∧ (ks.foldl (State.signalCue z) s).level = s.level ∧
    (ks.foldl (State.signalCue z) s).supply = s.supply ∧ (ks.foldl (State.signalCue z) s).base = s.base ∧
    (ks.foldl (State.signalCue z) s).ports = s.ports ∧ (ks.foldl (State.signalCue z) s).pwm = s.pwm ∧
    (ks.foldl (State.signalCue z) s).pending = s.pending := by
  induction ks generalizing s with
  | nil => simp
  | cons k ks ih => simpa using ih (State.signalCue z s k)

@[simp] theorem State.signalAbsence_frame (s : State) (z : ZoneNo) :
    (s.signalAbsence z).nodeState = s.nodeState ∧ (s.signalAbsence z).config = s.config ∧
    (s.signalAbsence z).showClock = s.showClock ∧ (s.signalAbsence z).drainDeadline = s.drainDeadline ∧
    (s.signalAbsence z).bus = s.bus ∧ (s.signalAbsence z).intake = s.intake ∧
    (s.signalAbsence z).roster = s.roster ∧ (s.signalAbsence z).level = s.level ∧
    (s.signalAbsence z).supply = s.supply ∧ (s.signalAbsence z).base = s.base ∧
    (s.signalAbsence z).ports = s.ports ∧ (s.signalAbsence z).pwm = s.pwm ∧
    (s.signalAbsence z).pending = s.pending :=
  signalKeys_frame z _ s

@[simp] theorem State.cancel_frame (s : State) (origin : ZoneNo) (tag : Byte) (mode : CancelMode) (fadeTime : Byte) :
    (s.cancel origin tag mode fadeTime).nodeState = s.nodeState ∧
    (s.cancel origin tag mode fadeTime).config = s.config ∧
    (s.cancel origin tag mode fadeTime).showClock = s.showClock ∧
    (s.cancel origin tag mode fadeTime).drainDeadline = s.drainDeadline ∧
    (s.cancel origin tag mode fadeTime).bus = s.bus ∧ (s.cancel origin tag mode fadeTime).intake = s.intake ∧
    (s.cancel origin tag mode fadeTime).roster = s.roster ∧
    (s.cancel origin tag mode fadeTime).level = s.level ∧
    (s.cancel origin tag mode fadeTime).supply = s.supply ∧ (s.cancel origin tag mode fadeTime).base = s.base ∧
    (s.cancel origin tag mode fadeTime).ports = s.ports ∧ (s.cancel origin tag mode fadeTime).pwm = s.pwm ∧
    (s.cancel origin tag mode fadeTime).status = s.status ∧
    (s.cancel origin tag mode fadeTime).pending = s.pending := by
  simp [State.cancel]

@[simp] theorem State.setTheme_frame (s : State) (look : Look) (t : Nat) :
    (s.setTheme look t).nodeState = s.nodeState ∧ (s.setTheme look t).config = s.config ∧
    (s.setTheme look t).showClock = s.showClock ∧ (s.setTheme look t).drainDeadline = s.drainDeadline ∧
    (s.setTheme look t).bus = s.bus ∧ (s.setTheme look t).out = s.out ∧ (s.setTheme look t).intake = s.intake ∧
    (s.setTheme look t).roster = s.roster ∧ (s.setTheme look t).level = s.level ∧
    (s.setTheme look t).supply = s.supply ∧ (s.setTheme look t).cues = s.cues ∧
    (s.setTheme look t).stack = s.stack ∧ (s.setTheme look t).ports = s.ports ∧
    (s.setTheme look t).pwm = s.pwm ∧ (s.setTheme look t).status = s.status ∧
    (s.setTheme look t).pending = s.pending := by
  simp [State.setTheme]

@[simp] theorem State.beginDrain_frame (s : State) (drainTime : Byte) :
    (s.beginDrain drainTime).config = s.config ∧ (s.beginDrain drainTime).showClock = s.showClock ∧
    (s.beginDrain drainTime).bus = s.bus ∧ (s.beginDrain drainTime).out = s.out ∧
    (s.beginDrain drainTime).intake = s.intake ∧ (s.beginDrain drainTime).roster = s.roster ∧
    (s.beginDrain drainTime).level = s.level ∧ (s.beginDrain drainTime).supply = s.supply ∧
    (s.beginDrain drainTime).base = s.base ∧ (s.beginDrain drainTime).ports = s.ports ∧
    (s.beginDrain drainTime).pwm = s.pwm ∧ (s.beginDrain drainTime).status = s.status ∧
    (s.beginDrain drainTime).pending = s.pending := by
  simp [State.beginDrain]

@[simp] theorem State.sleep_frame (s : State) (drainTime : Byte) :
    (s.sleep drainTime).config = s.config ∧ (s.sleep drainTime).showClock = s.showClock ∧
    (s.sleep drainTime).bus = s.bus ∧ (s.sleep drainTime).out = s.out ∧ (s.sleep drainTime).intake = s.intake ∧
    (s.sleep drainTime).roster = s.roster ∧ (s.sleep drainTime).level = s.level ∧
    (s.sleep drainTime).supply = s.supply ∧ (s.sleep drainTime).status = s.status ∧
    (s.sleep drainTime).pending = s.pending := by
  unfold State.sleep; (repeat' split) <;> simp

@[simp] theorem State.wake_frame (s : State) :
    (s.wake).config = s.config ∧ (s.wake).showClock = s.showClock ∧ (s.wake).bus = s.bus ∧
    (s.wake).out = s.out ∧ (s.wake).intake = s.intake ∧ (s.wake).roster = s.roster ∧ (s.wake).level = s.level ∧
    (s.wake).supply = s.supply ∧ (s.wake).cues = s.cues ∧ (s.wake).stack = s.stack ∧ (s.wake).pwm = s.pwm ∧
    (s.wake).status = s.status ∧ (s.wake).pending = s.pending := by
  unfold State.wake; (try dsimp only); (repeat' split) <;> simp

@[simp] theorem State.handOnCap_frame (s : State) (old : Byte) :
    (s.handOnCap old).nodeState = s.nodeState ∧ (s.handOnCap old).config = s.config ∧
    (s.handOnCap old).showClock = s.showClock ∧ (s.handOnCap old).drainDeadline = s.drainDeadline ∧
    (s.handOnCap old).bus = s.bus ∧ (s.handOnCap old).intake = s.intake ∧ (s.handOnCap old).roster = s.roster ∧
    (s.handOnCap old).supply = s.supply ∧ (s.handOnCap old).cues = s.cues ∧ (s.handOnCap old).stack = s.stack ∧
    (s.handOnCap old).base = s.base ∧ (s.handOnCap old).ports = s.ports ∧ (s.handOnCap old).pwm = s.pwm ∧
    (s.handOnCap old).pending = s.pending := by
  unfold State.handOnCap; (repeat' split) <;> simp

@[simp] theorem State.moveSupply_frame (s : State) (st : SupplyState) :
    (s.moveSupply st).nodeState = s.nodeState ∧ (s.moveSupply st).config = s.config ∧
    (s.moveSupply st).showClock = s.showClock ∧ (s.moveSupply st).drainDeadline = s.drainDeadline ∧
    (s.moveSupply st).bus = s.bus ∧ (s.moveSupply st).intake = s.intake ∧ (s.moveSupply st).roster = s.roster ∧
    (s.moveSupply st).cues = s.cues ∧ (s.moveSupply st).stack = s.stack ∧ (s.moveSupply st).base = s.base ∧
    (s.moveSupply st).ports = s.ports ∧ (s.moveSupply st).pwm = s.pwm ∧ (s.moveSupply st).pending = s.pending := by
  unfold State.moveSupply; (try dsimp only); (repeat' split) <;> simp

@[simp] theorem State.takeBand_frame (s : State) (b : Band) :
    (s.takeBand b).nodeState = s.nodeState ∧ (s.takeBand b).config = s.config ∧
    (s.takeBand b).showClock = s.showClock ∧ (s.takeBand b).drainDeadline = s.drainDeadline ∧
    (s.takeBand b).bus = s.bus ∧ (s.takeBand b).intake = s.intake ∧ (s.takeBand b).roster = s.roster ∧
    (s.takeBand b).cues = s.cues ∧ (s.takeBand b).stack = s.stack ∧ (s.takeBand b).base = s.base ∧
    (s.takeBand b).ports = s.ports ∧ (s.takeBand b).pwm = s.pwm ∧ (s.takeBand b).pending = s.pending := by
  unfold State.takeBand; (try dsimp only); simp

@[simp] theorem State.refresh_frame (s : State) (origin : ZoneNo) :
    (s.refresh origin).nodeState = s.nodeState ∧ (s.refresh origin).config = s.config ∧
    (s.refresh origin).showClock = s.showClock ∧ (s.refresh origin).drainDeadline = s.drainDeadline ∧
    (s.refresh origin).bus = s.bus ∧ (s.refresh origin).out = s.out ∧ (s.refresh origin).intake = s.intake ∧
    (s.refresh origin).level = s.level ∧ (s.refresh origin).supply = s.supply ∧
    (s.refresh origin).cues = s.cues ∧ (s.refresh origin).stack = s.stack ∧ (s.refresh origin).base = s.base ∧
    (s.refresh origin).ports = s.ports ∧ (s.refresh origin).pwm = s.pwm ∧ (s.refresh origin).status = s.status ∧
    (s.refresh origin).pending = s.pending := by
  unfold State.refresh; (repeat' split) <;> simp

@[simp] theorem State.answerNewcomer_frame (s : State) :
    (s.answerNewcomer).nodeState = s.nodeState ∧ (s.answerNewcomer).config = s.config ∧
    (s.answerNewcomer).showClock = s.showClock ∧ (s.answerNewcomer).drainDeadline = s.drainDeadline ∧
    (s.answerNewcomer).bus = s.bus ∧ (s.answerNewcomer).intake = s.intake ∧
    (s.answerNewcomer).roster = s.roster ∧ (s.answerNewcomer).level = s.level ∧
    (s.answerNewcomer).supply = s.supply ∧ (s.answerNewcomer).cues = s.cues ∧
    (s.answerNewcomer).stack = s.stack ∧ (s.answerNewcomer).base = s.base ∧ (s.answerNewcomer).ports = s.ports ∧
    (s.answerNewcomer).pwm = s.pwm ∧ (s.answerNewcomer).pending = s.pending := by
  unfold State.answerNewcomer; (repeat' split) <;> simp

@[simp] theorem State.toSpeaking_frame (s : State) :
    (s.toSpeaking).nodeState = s.nodeState ∧ (s.toSpeaking).config = s.config ∧
    (s.toSpeaking).showClock = s.showClock ∧ (s.toSpeaking).drainDeadline = s.drainDeadline ∧
    (s.toSpeaking).intake = s.intake ∧ (s.toSpeaking).roster = s.roster ∧ (s.toSpeaking).level = s.level ∧
    (s.toSpeaking).supply = s.supply ∧ (s.toSpeaking).cues = s.cues ∧ (s.toSpeaking).stack = s.stack ∧
    (s.toSpeaking).base = s.base ∧ (s.toSpeaking).ports = s.ports ∧ (s.toSpeaking).pwm = s.pwm ∧
    (s.toSpeaking).pending = s.pending := by
  unfold State.toSpeaking; (try dsimp only); simp

@[simp] theorem State.deliverPresence_frame (s : State) (i : Fin 31) (kind : PeerKind) (cap : Byte) :
    (s.deliverPresence i kind cap).nodeState = s.nodeState ∧ (s.deliverPresence i kind cap).config = s.config ∧
    (s.deliverPresence i kind cap).showClock = s.showClock ∧
    (s.deliverPresence i kind cap).drainDeadline = s.drainDeadline ∧
    (s.deliverPresence i kind cap).intake = s.intake ∧ (s.deliverPresence i kind cap).supply = s.supply ∧
    (s.deliverPresence i kind cap).cues = s.cues ∧ (s.deliverPresence i kind cap).stack = s.stack ∧
    (s.deliverPresence i kind cap).base = s.base ∧ (s.deliverPresence i kind cap).ports = s.ports ∧
    (s.deliverPresence i kind cap).pwm = s.pwm ∧ (s.deliverPresence i kind cap).pending = s.pending := by
  unfold State.deliverPresence; (try dsimp only); (repeat' split) <;> simp

@[simp] theorem State.deliverCap_frame (s : State) (i : Fin 31) (cap : Byte) :
    (s.deliverCap i cap).nodeState = s.nodeState ∧ (s.deliverCap i cap).config = s.config ∧
    (s.deliverCap i cap).showClock = s.showClock ∧ (s.deliverCap i cap).drainDeadline = s.drainDeadline ∧
    (s.deliverCap i cap).bus = s.bus ∧ (s.deliverCap i cap).out = s.out ∧
    (s.deliverCap i cap).intake = s.intake ∧ (s.deliverCap i cap).supply = s.supply ∧
    (s.deliverCap i cap).cues = s.cues ∧ (s.deliverCap i cap).stack = s.stack ∧
    (s.deliverCap i cap).base = s.base ∧ (s.deliverCap i cap).ports = s.ports ∧
    (s.deliverCap i cap).pwm = s.pwm ∧ (s.deliverCap i cap).status = s.status ∧
    (s.deliverCap i cap).pending = s.pending := by
  unfold State.deliverCap; simp

@[simp] theorem State.withInbox_frame (s : State) (fs : List RosterFrame) :
    (s.withInbox fs).nodeState = s.nodeState ∧ (s.withInbox fs).config = s.config ∧
    (s.withInbox fs).showClock = s.showClock ∧ (s.withInbox fs).drainDeadline = s.drainDeadline ∧
    (s.withInbox fs).bus = s.bus ∧ (s.withInbox fs).out = s.out ∧ (s.withInbox fs).roster = s.roster ∧
    (s.withInbox fs).level = s.level ∧ (s.withInbox fs).supply = s.supply ∧ (s.withInbox fs).cues = s.cues ∧
    (s.withInbox fs).stack = s.stack ∧ (s.withInbox fs).base = s.base ∧ (s.withInbox fs).ports = s.ports ∧
    (s.withInbox fs).pwm = s.pwm ∧ (s.withInbox fs).status = s.status ∧ (s.withInbox fs).pending = s.pending := by
  simp [State.withInbox]

@[simp] theorem State.watch_frame (s : State) (l : LineWatch) :
    (s.watch l).nodeState = s.nodeState ∧ (s.watch l).config = s.config ∧ (s.watch l).showClock = s.showClock ∧
    (s.watch l).drainDeadline = s.drainDeadline ∧ (s.watch l).out = s.out ∧ (s.watch l).intake = s.intake ∧
    (s.watch l).roster = s.roster ∧ (s.watch l).level = s.level ∧ (s.watch l).supply = s.supply ∧
    (s.watch l).cues = s.cues ∧ (s.watch l).stack = s.stack ∧ (s.watch l).base = s.base ∧
    (s.watch l).ports = s.ports ∧ (s.watch l).pwm = s.pwm ∧ (s.watch l).status = s.status ∧
    (s.watch l).pending = s.pending := by
  simp [State.watch]

@[simp] theorem State.presenceSent_frame (s : State) (e : SendEntry) :
    (s.presenceSent e).nodeState = s.nodeState ∧ (s.presenceSent e).config = s.config ∧
    (s.presenceSent e).showClock = s.showClock ∧ (s.presenceSent e).drainDeadline = s.drainDeadline ∧
    (s.presenceSent e).bus = s.bus ∧ (s.presenceSent e).out = s.out ∧ (s.presenceSent e).intake = s.intake ∧
    (s.presenceSent e).level = s.level ∧ (s.presenceSent e).supply = s.supply ∧
    (s.presenceSent e).cues = s.cues ∧ (s.presenceSent e).stack = s.stack ∧ (s.presenceSent e).base = s.base ∧
    (s.presenceSent e).ports = s.ports ∧ (s.presenceSent e).pwm = s.pwm ∧ (s.presenceSent e).pending = s.pending := by
  unfold State.presenceSent; (try dsimp only); (repeat' split) <;> simp

@[simp] theorem State.enterListenOnly_frame (s : State) :
    (s.enterListenOnly).nodeState = s.nodeState ∧ (s.enterListenOnly).config = s.config ∧
    (s.enterListenOnly).showClock = s.showClock ∧ (s.enterListenOnly).drainDeadline = s.drainDeadline ∧
    (s.enterListenOnly).intake = s.intake ∧ (s.enterListenOnly).roster = s.roster ∧
    (s.enterListenOnly).level = s.level ∧ (s.enterListenOnly).supply = s.supply ∧
    (s.enterListenOnly).cues = s.cues ∧ (s.enterListenOnly).stack = s.stack ∧
    (s.enterListenOnly).base = s.base ∧ (s.enterListenOnly).ports = s.ports ∧ (s.enterListenOnly).pwm = s.pwm ∧
    (s.enterListenOnly).pending = s.pending := by
  unfold State.enterListenOnly; (try dsimp only); simp

@[simp] theorem State.countVoid_frame (s : State) :
    (s.countVoid).nodeState = s.nodeState ∧ (s.countVoid).config = s.config ∧
    (s.countVoid).showClock = s.showClock ∧ (s.countVoid).drainDeadline = s.drainDeadline ∧
    (s.countVoid).intake = s.intake ∧ (s.countVoid).roster = s.roster ∧ (s.countVoid).level = s.level ∧
    (s.countVoid).supply = s.supply ∧ (s.countVoid).cues = s.cues ∧ (s.countVoid).stack = s.stack ∧
    (s.countVoid).base = s.base ∧ (s.countVoid).ports = s.ports ∧ (s.countVoid).pwm = s.pwm ∧
    (s.countVoid).pending = s.pending := by
  unfold State.countVoid; (try dsimp only); (repeat' split) <;> simp

@[simp] theorem State.attemptVoided_frame (s : State) :
    (s.attemptVoided).nodeState = s.nodeState ∧ (s.attemptVoided).config = s.config ∧
    (s.attemptVoided).showClock = s.showClock ∧ (s.attemptVoided).drainDeadline = s.drainDeadline ∧
    (s.attemptVoided).intake = s.intake ∧ (s.attemptVoided).roster = s.roster ∧
    (s.attemptVoided).level = s.level ∧ (s.attemptVoided).supply = s.supply ∧ (s.attemptVoided).cues = s.cues ∧
    (s.attemptVoided).stack = s.stack ∧ (s.attemptVoided).base = s.base ∧ (s.attemptVoided).ports = s.ports ∧
    (s.attemptVoided).pwm = s.pwm ∧ (s.attemptVoided).pending = s.pending := by
  unfold State.attemptVoided; simp

@[simp] theorem State.countFault_frame (s : State) :
    (s.countFault).nodeState = s.nodeState ∧ (s.countFault).config = s.config ∧
    (s.countFault).showClock = s.showClock ∧ (s.countFault).drainDeadline = s.drainDeadline ∧
    (s.countFault).intake = s.intake ∧ (s.countFault).roster = s.roster ∧ (s.countFault).level = s.level ∧
    (s.countFault).supply = s.supply ∧ (s.countFault).cues = s.cues ∧ (s.countFault).stack = s.stack ∧
    (s.countFault).base = s.base ∧ (s.countFault).ports = s.ports ∧ (s.countFault).pwm = s.pwm ∧
    (s.countFault).pending = s.pending := by
  unfold State.countFault; (try dsimp only); (repeat' split) <;> simp

@[simp] theorem State.countFrame_frame (s : State) (faulty : Bool) :
    (s.countFrame faulty).nodeState = s.nodeState ∧ (s.countFrame faulty).config = s.config ∧
    (s.countFrame faulty).showClock = s.showClock ∧ (s.countFrame faulty).drainDeadline = s.drainDeadline ∧
    (s.countFrame faulty).intake = s.intake ∧ (s.countFrame faulty).roster = s.roster ∧
    (s.countFrame faulty).level = s.level ∧ (s.countFrame faulty).supply = s.supply ∧
    (s.countFrame faulty).cues = s.cues ∧ (s.countFrame faulty).stack = s.stack ∧
    (s.countFrame faulty).base = s.base ∧ (s.countFrame faulty).ports = s.ports ∧
    (s.countFrame faulty).pwm = s.pwm ∧ (s.countFrame faulty).pending = s.pending := by
  unfold State.countFrame; (try dsimp only); (repeat' split) <;> simp

@[simp] theorem State.endFrame_frame (s : State) (vote : Vote) (faulty : Bool) :
    (s.endFrame vote faulty).nodeState = s.nodeState ∧ (s.endFrame vote faulty).config = s.config ∧
    (s.endFrame vote faulty).showClock = s.showClock ∧
    (s.endFrame vote faulty).drainDeadline = s.drainDeadline ∧ (s.endFrame vote faulty).intake = s.intake ∧
    (s.endFrame vote faulty).roster = s.roster ∧ (s.endFrame vote faulty).level = s.level ∧
    (s.endFrame vote faulty).supply = s.supply ∧ (s.endFrame vote faulty).cues = s.cues ∧
    (s.endFrame vote faulty).stack = s.stack ∧ (s.endFrame vote faulty).base = s.base ∧
    (s.endFrame vote faulty).ports = s.ports ∧ (s.endFrame vote faulty).pwm = s.pwm ∧
    (s.endFrame vote faulty).pending = s.pending := by
  unfold State.endFrame; (try dsimp only); (repeat' split) <;> simp

@[simp] theorem State.endRest_frame (s : State) :
    s.endRest.nodeState = s.nodeState ∧ s.endRest.config = s.config ∧ s.endRest.showClock = s.showClock ∧
    s.endRest.drainDeadline = s.drainDeadline ∧ s.endRest.out = s.out ∧ s.endRest.intake = s.intake ∧
    s.endRest.roster = s.roster ∧ s.endRest.level = s.level ∧ s.endRest.supply = s.supply ∧
    s.endRest.cues = s.cues ∧ s.endRest.stack = s.stack ∧ s.endRest.base = s.base ∧ s.endRest.ports = s.ports ∧
    s.endRest.pwm = s.pwm ∧ s.endRest.status = s.status ∧ s.endRest.pending = s.pending := by
  unfold State.endRest; split <;> simp

@[simp] theorem State.silentEdge_frame (s : State) :
    (s.silentEdge).nodeState = s.nodeState ∧ (s.silentEdge).config = s.config ∧
    (s.silentEdge).showClock = s.showClock ∧ (s.silentEdge).drainDeadline = s.drainDeadline ∧
    (s.silentEdge).out = s.out ∧ (s.silentEdge).intake = s.intake ∧ (s.silentEdge).roster = s.roster ∧
    (s.silentEdge).level = s.level ∧ (s.silentEdge).supply = s.supply ∧ (s.silentEdge).cues = s.cues ∧
    (s.silentEdge).stack = s.stack ∧ (s.silentEdge).base = s.base ∧ (s.silentEdge).ports = s.ports ∧
    (s.silentEdge).pwm = s.pwm ∧ (s.silentEdge).status = s.status ∧ (s.silentEdge).pending = s.pending := by
  simp [State.silentEdge]

@[simp] theorem State.deliverFrame_frame (s : State) (k : FrameKind) (origin : ZoneNo) (body : List Byte) :
    (s.deliverFrame k origin body).nodeState = s.nodeState ∧ (s.deliverFrame k origin body).config = s.config ∧
    (s.deliverFrame k origin body).showClock = s.showClock ∧
    (s.deliverFrame k origin body).drainDeadline = s.drainDeadline ∧
    (s.deliverFrame k origin body).bus = s.bus ∧ (s.deliverFrame k origin body).roster = s.roster ∧
    (s.deliverFrame k origin body).level = s.level ∧ (s.deliverFrame k origin body).supply = s.supply ∧
    (s.deliverFrame k origin body).cues = s.cues ∧ (s.deliverFrame k origin body).stack = s.stack ∧
    (s.deliverFrame k origin body).base = s.base ∧ (s.deliverFrame k origin body).ports = s.ports ∧
    (s.deliverFrame k origin body).pwm = s.pwm ∧ (s.deliverFrame k origin body).pending = s.pending := by
  unfold State.deliverFrame; (repeat' split) <;> simp

@[simp] theorem State.accept_frame (s : State) (header : BitVec 12) (body : List Byte) :
    (s.accept header body).nodeState = s.nodeState ∧ (s.accept header body).config = s.config ∧
    (s.accept header body).showClock = s.showClock ∧ (s.accept header body).drainDeadline = s.drainDeadline ∧
    (s.accept header body).bus = s.bus ∧ (s.accept header body).roster = s.roster ∧
    (s.accept header body).level = s.level ∧ (s.accept header body).supply = s.supply ∧
    (s.accept header body).cues = s.cues ∧ (s.accept header body).stack = s.stack ∧
    (s.accept header body).base = s.base ∧ (s.accept header body).ports = s.ports ∧
    (s.accept header body).pwm = s.pwm ∧ (s.accept header body).pending = s.pending := by
  unfold State.accept; (repeat' split) <;> simp

@[simp] theorem State.handOn_frame (s : State) (header : BitVec 12) (body : List Byte) :
    (s.handOn header body).nodeState = s.nodeState ∧ (s.handOn header body).config = s.config ∧
    (s.handOn header body).showClock = s.showClock ∧ (s.handOn header body).drainDeadline = s.drainDeadline ∧
    (s.handOn header body).bus = s.bus ∧ (s.handOn header body).level = s.level ∧
    (s.handOn header body).supply = s.supply ∧ (s.handOn header body).cues = s.cues ∧
    (s.handOn header body).stack = s.stack ∧ (s.handOn header body).base = s.base ∧
    (s.handOn header body).ports = s.ports ∧ (s.handOn header body).pwm = s.pwm ∧
    (s.handOn header body).pending = s.pending := by
  unfold State.handOn; simp

@[simp] theorem State.activated_frame (s : State) :
    (s.activated).config = s.config ∧ (s.activated).pending = s.pending := by
  simp [State.activated]

@[simp] theorem State.enterActive_frame (s : State) (v : Millivolts) :
    (s.enterActive v).config = s.config ∧ (s.enterActive v).pending = s.pending := by
  unfold State.enterActive; simp

/-! ## What the plain updates write -/

@[simp] theorem State.raise_status (s : State) (n : Notice) : (s.raise n).status = s.status.raise n := rfl

@[simp] theorem State.raise_nextOrder (s : State) (n : Notice) : (s.raise n).out.nextOrder = s.out.nextOrder := rfl

@[simp] theorem State.raise_entries (s : State) (n : Notice) :
    (s.raise n).out.entries = s.out.entries.map (SendEntry.unmark n.group) := rfl

@[simp] theorem State.raiseIf_false (s : State) (n : Notice) : s.raiseIf false n = s := rfl

@[simp] theorem State.raiseIf_true (s : State) (n : Notice) : s.raiseIf true n = s.raise n := rfl

@[simp] theorem State.clearNotices_groupNew (s : State) (m : BitVec 16) :
    (s.clearNotices m).status.groupNew = s.status.groupNew := rfl

@[simp] theorem State.clearNotices_notices (s : State) (m : BitVec 16) :
    (s.clearNotices m).status.notices = s.status.notices &&& ~~~m := rfl

@[simp] theorem State.settle_entries (s : State) (f : SendEntry → Option SendEntry) :
    (s.settle f).out.entries = settleInFlight f s.out.entries := rfl

@[simp] theorem State.settle_nextOrder (s : State) (f : SendEntry → Option SendEntry) :
    (s.settle f).out.nextOrder = s.out.nextOrder := rfl

@[simp] theorem State.formTarget_level (s : State) :
    s.formTarget.level = s.level.meet s.target s.showClock := rfl

@[simp] theorem State.setPeer_entries (s : State) (i : Fin 31) (p : Option Peer) :
    (s.setPeer i p).roster.entries = s.roster.entries.set i p := rfl

@[simp] theorem State.setPeer_presenceTimer (s : State) (i : Fin 31) (p : Option Peer) :
    (s.setPeer i p).roster.presenceTimer = s.roster.presenceTimer := rfl

@[simp] theorem State.setPeer_completionStamp (s : State) (i : Fin 31) (p : Option Peer) :
    (s.setPeer i p).roster.completionStamp = s.roster.completionStamp := rfl

@[simp] theorem State.setPort_ports (s : State) (p : Fin 4) (x : Port) : (s.setPort p x).ports = s.ports.set p x := rfl

@[simp] theorem State.setLayers_layers (s : State) (ls : List Layer) : (s.setLayers ls).stack.layers = ls := rfl

@[simp] theorem State.setLayers_nextStart (s : State) (ls : List Layer) :
    (s.setLayers ls).stack.nextStart = s.stack.nextStart := rfl

@[simp] theorem State.withInbox_inbox (s : State) (fs : List RosterFrame) : (s.withInbox fs).intake.inbox = fs := rfl

@[simp] theorem State.withInbox_fifo (s : State) (fs : List RosterFrame) :
    (s.withInbox fs).intake.fifo = s.intake.fifo := rfl

@[simp] theorem State.withInbox_slot (s : State) (fs : List RosterFrame) :
    (s.withInbox fs).intake.slot = s.intake.slot := rfl

@[simp] theorem State.watch_bus (s : State) (l : LineWatch) : (s.watch l).bus = { s.bus with line := l } := rfl

@[simp] theorem State.silentEdge_bus (s : State) :
    s.silentEdge.bus = { s.bus with recessiveCount := 0, line := .outside .rise 0 } := rfl

@[simp] theorem State.setTheme_theme (s : State) (look : Look) (t : Nat) : (s.setTheme look t).base.theme = look := by
  unfold State.setTheme Base.moveTo; (repeat' split) <;> rfl

@[simp] theorem State.complete_slot (s : State) (effect : State → State) :
    (s.complete effect).intake =
      (effect { s with intake := { s.intake with slot := none } }).intake.take
        (effect { s with intake := { s.intake with slot := none } }).showClock := rfl

end Sys2Proof.Machine
end

