-- ==== Sys2Proof/Laws/Commands.lean ====
section
/-! SUPPORT. The fields of `State` that each command leaves alone: one lemma per command. -/

namespace Sys2Proof.Machine

@[simp] theorem portFrameEvent_frame (p : Fin 4) (s : State) :
    (portFrameEvent p s).nodeState = s.nodeState ∧ (portFrameEvent p s).config = s.config ∧
    (portFrameEvent p s).showClock = s.showClock ∧ (portFrameEvent p s).drainDeadline = s.drainDeadline ∧
    (portFrameEvent p s).bus = s.bus ∧ (portFrameEvent p s).intake = s.intake ∧
    (portFrameEvent p s).roster = s.roster ∧ (portFrameEvent p s).level = s.level ∧
    (portFrameEvent p s).supply = s.supply ∧ (portFrameEvent p s).cues = s.cues ∧
    (portFrameEvent p s).stack = s.stack ∧ (portFrameEvent p s).base = s.base ∧
    (portFrameEvent p s).pending = s.pending := by
  unfold portFrameEvent; (try dsimp only); (repeat' split) <;> simp

@[simp] theorem sendFinish_frame (p : Fin 4) (s : State) :
    (sendFinish p s).nodeState = s.nodeState ∧ (sendFinish p s).config = s.config ∧
    (sendFinish p s).showClock = s.showClock ∧ (sendFinish p s).drainDeadline = s.drainDeadline ∧
    (sendFinish p s).bus = s.bus ∧ (sendFinish p s).out = s.out ∧ (sendFinish p s).intake = s.intake ∧
    (sendFinish p s).roster = s.roster ∧ (sendFinish p s).level = s.level ∧ (sendFinish p s).supply = s.supply ∧
    (sendFinish p s).cues = s.cues ∧ (sendFinish p s).stack = s.stack ∧ (sendFinish p s).base = s.base ∧
    (sendFinish p s).pwm = s.pwm ∧ (sendFinish p s).status = s.status ∧ (sendFinish p s).pending = s.pending := by
  unfold sendFinish; (try dsimp only); (repeat' split) <;> simp

@[simp] theorem markerShifted_frame (p : Fin 4) (s : State) :
    (markerShifted p s).nodeState = s.nodeState ∧ (markerShifted p s).config = s.config ∧
    (markerShifted p s).showClock = s.showClock ∧ (markerShifted p s).drainDeadline = s.drainDeadline ∧
    (markerShifted p s).bus = s.bus ∧ (markerShifted p s).out = s.out ∧ (markerShifted p s).intake = s.intake ∧
    (markerShifted p s).roster = s.roster ∧ (markerShifted p s).level = s.level ∧
    (markerShifted p s).supply = s.supply ∧ (markerShifted p s).cues = s.cues ∧
    (markerShifted p s).stack = s.stack ∧ (markerShifted p s).base = s.base ∧ (markerShifted p s).pwm = s.pwm ∧
    (markerShifted p s).status = s.status ∧ (markerShifted p s).pending = s.pending := by
  unfold markerShifted; (try dsimp only); (repeat' split) <;> simp

@[simp] theorem darkFrameSent_frame (p : Fin 4) (s : State) :
    (darkFrameSent p s).nodeState = s.nodeState ∧ (darkFrameSent p s).config = s.config ∧
    (darkFrameSent p s).showClock = s.showClock ∧ (darkFrameSent p s).drainDeadline = s.drainDeadline ∧
    (darkFrameSent p s).bus = s.bus ∧ (darkFrameSent p s).out = s.out ∧ (darkFrameSent p s).intake = s.intake ∧
    (darkFrameSent p s).roster = s.roster ∧ (darkFrameSent p s).level = s.level ∧
    (darkFrameSent p s).supply = s.supply ∧ (darkFrameSent p s).cues = s.cues ∧
    (darkFrameSent p s).stack = s.stack ∧ (darkFrameSent p s).base = s.base ∧ (darkFrameSent p s).pwm = s.pwm ∧
    (darkFrameSent p s).status = s.status ∧ (darkFrameSent p s).pending = s.pending := by
  unfold darkFrameSent; (try dsimp only); (repeat' split) <;> simp

@[simp] theorem echoArrival_frame (p : Fin 4) (echo : BitVec 32) (s : State) :
    (echoArrival p echo s).nodeState = s.nodeState ∧ (echoArrival p echo s).config = s.config ∧
    (echoArrival p echo s).showClock = s.showClock ∧ (echoArrival p echo s).drainDeadline = s.drainDeadline ∧
    (echoArrival p echo s).bus = s.bus ∧ (echoArrival p echo s).intake = s.intake ∧
    (echoArrival p echo s).roster = s.roster ∧ (echoArrival p echo s).level = s.level ∧
    (echoArrival p echo s).supply = s.supply ∧ (echoArrival p echo s).cues = s.cues ∧
    (echoArrival p echo s).stack = s.stack ∧ (echoArrival p echo s).base = s.base ∧
    (echoArrival p echo s).pwm = s.pwm ∧ (echoArrival p echo s).pending = s.pending := by
  unfold echoArrival; (try dsimp only); (repeat' split) <;> simp

@[simp] theorem echoTimeout_frame (p : Fin 4) (s : State) :
    (echoTimeout p s).nodeState = s.nodeState ∧ (echoTimeout p s).config = s.config ∧
    (echoTimeout p s).showClock = s.showClock ∧ (echoTimeout p s).drainDeadline = s.drainDeadline ∧
    (echoTimeout p s).bus = s.bus ∧ (echoTimeout p s).intake = s.intake ∧ (echoTimeout p s).roster = s.roster ∧
    (echoTimeout p s).level = s.level ∧ (echoTimeout p s).supply = s.supply ∧ (echoTimeout p s).cues = s.cues ∧
    (echoTimeout p s).stack = s.stack ∧ (echoTimeout p s).base = s.base ∧ (echoTimeout p s).pwm = s.pwm ∧
    (echoTimeout p s).pending = s.pending := by
  unfold echoTimeout; (repeat' split) <;> simp

@[simp] theorem probeDeadline_frame (p : Fin 4) (s : State) :
    (probeDeadline p s).nodeState = s.nodeState ∧ (probeDeadline p s).config = s.config ∧
    (probeDeadline p s).showClock = s.showClock ∧ (probeDeadline p s).drainDeadline = s.drainDeadline ∧
    (probeDeadline p s).bus = s.bus ∧ (probeDeadline p s).out = s.out ∧ (probeDeadline p s).intake = s.intake ∧
    (probeDeadline p s).roster = s.roster ∧ (probeDeadline p s).level = s.level ∧
    (probeDeadline p s).supply = s.supply ∧ (probeDeadline p s).cues = s.cues ∧
    (probeDeadline p s).stack = s.stack ∧ (probeDeadline p s).base = s.base ∧ (probeDeadline p s).pwm = s.pwm ∧
    (probeDeadline p s).status = s.status ∧ (probeDeadline p s).pending = s.pending := by
  unfold probeDeadline; (try dsimp only); (repeat' split) <;> simp

@[simp] theorem transitionStep_frame (s : State) :
    (transitionStep s).config = s.config ∧ (transitionStep s).showClock = s.showClock ∧
    (transitionStep s).bus = s.bus ∧ (transitionStep s).out = s.out ∧ (transitionStep s).intake = s.intake ∧
    (transitionStep s).roster = s.roster ∧ (transitionStep s).level = s.level ∧
    (transitionStep s).supply = s.supply ∧ (transitionStep s).cues = s.cues ∧
    (transitionStep s).status = s.status ∧ (transitionStep s).pending = s.pending := by
  unfold transitionStep; (repeat' split) <;> simp

@[simp] theorem drainTimerExpiry_frame (s : State) :
    (drainTimerExpiry s).config = s.config ∧ (drainTimerExpiry s).showClock = s.showClock ∧
    (drainTimerExpiry s).bus = s.bus ∧ (drainTimerExpiry s).out = s.out ∧
    (drainTimerExpiry s).intake = s.intake ∧ (drainTimerExpiry s).roster = s.roster ∧
    (drainTimerExpiry s).level = s.level ∧ (drainTimerExpiry s).supply = s.supply ∧
    (drainTimerExpiry s).cues = s.cues ∧ (drainTimerExpiry s).status = s.status ∧
    (drainTimerExpiry s).pending = s.pending := by
  unfold drainTimerExpiry; (repeat' split) <;> simp

@[simp] theorem enterAsleep_frame (s : State) :
    (enterAsleep s).config = s.config ∧ (enterAsleep s).showClock = s.showClock ∧
    (enterAsleep s).ports = s.ports ∧ (enterAsleep s).pwm = s.pwm ∧ (enterAsleep s).status = s.status ∧
    (enterAsleep s).pending = s.pending := by
  unfold enterAsleep; (repeat' split) <;> simp

@[simp] theorem showTick_frame (s : State) :
    (showTick s).nodeState = s.nodeState ∧ (showTick s).config = s.config ∧
    (showTick s).drainDeadline = s.drainDeadline ∧ (showTick s).bus = s.bus ∧ (showTick s).out = s.out ∧
    (showTick s).intake = s.intake ∧ (showTick s).roster = s.roster ∧ (showTick s).level = s.level ∧
    (showTick s).supply = s.supply ∧ (showTick s).cues = s.cues ∧ (showTick s).base = s.base ∧
    (showTick s).ports = s.ports ∧ (showTick s).pwm = s.pwm ∧ (showTick s).status = s.status ∧
    (showTick s).pending = s.pending := by
  unfold showTick; (try dsimp only); (repeat' split) <;> simp

@[simp] theorem layerPhaseAdvance_frame (k : CueKey) (s : State) :
    (layerPhaseAdvance k s).config = s.config ∧ (layerPhaseAdvance k s).showClock = s.showClock ∧
    (layerPhaseAdvance k s).bus = s.bus ∧ (layerPhaseAdvance k s).intake = s.intake ∧
    (layerPhaseAdvance k s).roster = s.roster ∧ (layerPhaseAdvance k s).level = s.level ∧
    (layerPhaseAdvance k s).supply = s.supply ∧ (layerPhaseAdvance k s).cues = s.cues ∧
    (layerPhaseAdvance k s).pending = s.pending := by
  unfold layerPhaseAdvance; (repeat' split) <;> simp

@[simp] theorem fadeStep_frame (k : CueKey) (s : State) :
    (fadeStep k s).config = s.config ∧ (fadeStep k s).showClock = s.showClock ∧ (fadeStep k s).bus = s.bus ∧
    (fadeStep k s).out = s.out ∧ (fadeStep k s).intake = s.intake ∧ (fadeStep k s).roster = s.roster ∧
    (fadeStep k s).level = s.level ∧ (fadeStep k s).supply = s.supply ∧ (fadeStep k s).cues = s.cues ∧
    (fadeStep k s).status = s.status ∧ (fadeStep k s).pending = s.pending := by
  unfold fadeStep; (repeat' split) <;> simp

@[simp] theorem callHandled_frame (s : State) :
    (callHandled s).nodeState = s.nodeState ∧ (callHandled s).config = s.config ∧
    (callHandled s).showClock = s.showClock ∧ (callHandled s).drainDeadline = s.drainDeadline ∧
    (callHandled s).bus = s.bus ∧ (callHandled s).roster = s.roster ∧ (callHandled s).level = s.level ∧
    (callHandled s).supply = s.supply ∧ (callHandled s).base = s.base ∧ (callHandled s).ports = s.ports ∧
    (callHandled s).pwm = s.pwm ∧ (callHandled s).pending = s.pending := by
  unfold callHandled; (repeat' split) <;> simp

@[simp] theorem handoffHandled_frame (s : State) :
    (handoffHandled s).nodeState = s.nodeState ∧ (handoffHandled s).config = s.config ∧
    (handoffHandled s).showClock = s.showClock ∧ (handoffHandled s).drainDeadline = s.drainDeadline ∧
    (handoffHandled s).bus = s.bus ∧ (handoffHandled s).roster = s.roster ∧ (handoffHandled s).level = s.level ∧
    (handoffHandled s).supply = s.supply ∧ (handoffHandled s).base = s.base ∧
    (handoffHandled s).ports = s.ports ∧ (handoffHandled s).pwm = s.pwm ∧ (handoffHandled s).pending = s.pending := by
  unfold handoffHandled; (repeat' split) <;> simp

@[simp] theorem fallbackExpiry_frame (k : CueKey) (s : State) :
    (fallbackExpiry k s).nodeState = s.nodeState ∧ (fallbackExpiry k s).config = s.config ∧
    (fallbackExpiry k s).showClock = s.showClock ∧ (fallbackExpiry k s).drainDeadline = s.drainDeadline ∧
    (fallbackExpiry k s).bus = s.bus ∧ (fallbackExpiry k s).intake = s.intake ∧
    (fallbackExpiry k s).roster = s.roster ∧ (fallbackExpiry k s).level = s.level ∧
    (fallbackExpiry k s).supply = s.supply ∧ (fallbackExpiry k s).base = s.base ∧
    (fallbackExpiry k s).ports = s.ports ∧ (fallbackExpiry k s).pwm = s.pwm ∧
    (fallbackExpiry k s).pending = s.pending := by
  unfold fallbackExpiry; (repeat' split) <;> simp

@[simp] theorem delayExpiry_frame (k : CueKey) (s : State) :
    (delayExpiry k s).nodeState = s.nodeState ∧ (delayExpiry k s).config = s.config ∧
    (delayExpiry k s).showClock = s.showClock ∧ (delayExpiry k s).drainDeadline = s.drainDeadline ∧
    (delayExpiry k s).bus = s.bus ∧ (delayExpiry k s).intake = s.intake ∧ (delayExpiry k s).roster = s.roster ∧
    (delayExpiry k s).level = s.level ∧ (delayExpiry k s).supply = s.supply ∧ (delayExpiry k s).base = s.base ∧
    (delayExpiry k s).ports = s.ports ∧ (delayExpiry k s).pwm = s.pwm ∧ (delayExpiry k s).pending = s.pending := by
  unfold delayExpiry; (repeat' split) <;> simp

@[simp] theorem cancelHandled_frame (s : State) :
    (cancelHandled s).config = s.config ∧ (cancelHandled s).showClock = s.showClock ∧
    (cancelHandled s).bus = s.bus ∧ (cancelHandled s).roster = s.roster ∧ (cancelHandled s).level = s.level ∧
    (cancelHandled s).supply = s.supply ∧ (cancelHandled s).status = s.status ∧
    (cancelHandled s).pending = s.pending := by
  unfold cancelHandled; (repeat' split) <;> simp

@[simp] theorem dimHandled_frame (s : State) :
    (dimHandled s).nodeState = s.nodeState ∧ (dimHandled s).config = s.config ∧
    (dimHandled s).showClock = s.showClock ∧ (dimHandled s).drainDeadline = s.drainDeadline ∧
    (dimHandled s).bus = s.bus ∧ (dimHandled s).out = s.out ∧ (dimHandled s).roster = s.roster ∧
    (dimHandled s).supply = s.supply ∧ (dimHandled s).cues = s.cues ∧ (dimHandled s).stack = s.stack ∧
    (dimHandled s).base = s.base ∧ (dimHandled s).ports = s.ports ∧ (dimHandled s).pwm = s.pwm ∧
    (dimHandled s).status = s.status ∧ (dimHandled s).pending = s.pending := by
  unfold dimHandled; (repeat' split) <;> simp

@[simp] theorem dimmerRampStep_frame (s : State) :
    (dimmerRampStep s).nodeState = s.nodeState ∧ (dimmerRampStep s).config = s.config ∧
    (dimmerRampStep s).showClock = s.showClock ∧ (dimmerRampStep s).drainDeadline = s.drainDeadline ∧
    (dimmerRampStep s).bus = s.bus ∧ (dimmerRampStep s).out = s.out ∧ (dimmerRampStep s).intake = s.intake ∧
    (dimmerRampStep s).roster = s.roster ∧ (dimmerRampStep s).supply = s.supply ∧
    (dimmerRampStep s).cues = s.cues ∧ (dimmerRampStep s).stack = s.stack ∧ (dimmerRampStep s).base = s.base ∧
    (dimmerRampStep s).ports = s.ports ∧ (dimmerRampStep s).pwm = s.pwm ∧ (dimmerRampStep s).status = s.status ∧
    (dimmerRampStep s).pending = s.pending := by
  unfold dimmerRampStep; (repeat' split) <;> simp

@[simp] theorem slewStep_frame (s : State) :
    (slewStep s).nodeState = s.nodeState ∧ (slewStep s).config = s.config ∧
    (slewStep s).showClock = s.showClock ∧ (slewStep s).drainDeadline = s.drainDeadline ∧
    (slewStep s).bus = s.bus ∧ (slewStep s).out = s.out ∧ (slewStep s).intake = s.intake ∧
    (slewStep s).roster = s.roster ∧ (slewStep s).supply = s.supply ∧ (slewStep s).cues = s.cues ∧
    (slewStep s).stack = s.stack ∧ (slewStep s).base = s.base ∧ (slewStep s).ports = s.ports ∧
    (slewStep s).pwm = s.pwm ∧ (slewStep s).status = s.status ∧ (slewStep s).pending = s.pending := by
  unfold slewStep; (repeat' split) <;> simp

@[simp] theorem themeHandled_frame (s : State) :
    (themeHandled s).nodeState = s.nodeState ∧ (themeHandled s).config = s.config ∧
    (themeHandled s).showClock = s.showClock ∧ (themeHandled s).drainDeadline = s.drainDeadline ∧
    (themeHandled s).bus = s.bus ∧ (themeHandled s).out = s.out ∧ (themeHandled s).roster = s.roster ∧
    (themeHandled s).level = s.level ∧ (themeHandled s).supply = s.supply ∧ (themeHandled s).cues = s.cues ∧
    (themeHandled s).stack = s.stack ∧ (themeHandled s).ports = s.ports ∧ (themeHandled s).pwm = s.pwm ∧
    (themeHandled s).status = s.status ∧ (themeHandled s).pending = s.pending := by
  unfold themeHandled; (repeat' split) <;> simp

@[simp] theorem sleepHandled_frame (s : State) :
    (sleepHandled s).config = s.config ∧ (sleepHandled s).showClock = s.showClock ∧
    (sleepHandled s).bus = s.bus ∧ (sleepHandled s).out = s.out ∧ (sleepHandled s).roster = s.roster ∧
    (sleepHandled s).level = s.level ∧ (sleepHandled s).supply = s.supply ∧ (sleepHandled s).status = s.status ∧
    (sleepHandled s).pending = s.pending := by
  unfold sleepHandled; (repeat' split) <;> simp

@[simp] theorem wakeHandled_frame (s : State) :
    (wakeHandled s).config = s.config ∧ (wakeHandled s).showClock = s.showClock ∧ (wakeHandled s).bus = s.bus ∧
    (wakeHandled s).out = s.out ∧ (wakeHandled s).roster = s.roster ∧ (wakeHandled s).level = s.level ∧
    (wakeHandled s).supply = s.supply ∧ (wakeHandled s).cues = s.cues ∧ (wakeHandled s).stack = s.stack ∧
    (wakeHandled s).pwm = s.pwm ∧ (wakeHandled s).status = s.status ∧ (wakeHandled s).pending = s.pending := by
  unfold wakeHandled; (repeat' split) <;> simp

@[simp] theorem queryHandled_frame (s : State) :
    (queryHandled s).nodeState = s.nodeState ∧ (queryHandled s).config = s.config ∧
    (queryHandled s).showClock = s.showClock ∧ (queryHandled s).drainDeadline = s.drainDeadline ∧
    (queryHandled s).bus = s.bus ∧ (queryHandled s).roster = s.roster ∧ (queryHandled s).level = s.level ∧
    (queryHandled s).supply = s.supply ∧ (queryHandled s).cues = s.cues ∧ (queryHandled s).stack = s.stack ∧
    (queryHandled s).base = s.base ∧ (queryHandled s).ports = s.ports ∧ (queryHandled s).pwm = s.pwm ∧
    (queryHandled s).pending = s.pending := by
  unfold queryHandled; (repeat' split) <;> simp

@[simp] theorem clearHandled_frame (s : State) :
    (clearHandled s).nodeState = s.nodeState ∧ (clearHandled s).config = s.config ∧
    (clearHandled s).showClock = s.showClock ∧ (clearHandled s).drainDeadline = s.drainDeadline ∧
    (clearHandled s).bus = s.bus ∧ (clearHandled s).out = s.out ∧ (clearHandled s).roster = s.roster ∧
    (clearHandled s).level = s.level ∧ (clearHandled s).supply = s.supply ∧ (clearHandled s).cues = s.cues ∧
    (clearHandled s).stack = s.stack ∧ (clearHandled s).base = s.base ∧ (clearHandled s).ports = s.ports ∧
    (clearHandled s).pwm = s.pwm ∧ (clearHandled s).pending = s.pending := by
  unfold clearHandled; (repeat' split) <;> simp

@[simp] theorem statusHandled_frame (s : State) :
    (statusHandled s).nodeState = s.nodeState ∧ (statusHandled s).config = s.config ∧
    (statusHandled s).showClock = s.showClock ∧ (statusHandled s).drainDeadline = s.drainDeadline ∧
    (statusHandled s).bus = s.bus ∧ (statusHandled s).out = s.out ∧ (statusHandled s).roster = s.roster ∧
    (statusHandled s).level = s.level ∧ (statusHandled s).supply = s.supply ∧ (statusHandled s).cues = s.cues ∧
    (statusHandled s).stack = s.stack ∧ (statusHandled s).base = s.base ∧ (statusHandled s).ports = s.ports ∧
    (statusHandled s).pwm = s.pwm ∧ (statusHandled s).status = s.status ∧ (statusHandled s).pending = s.pending := by
  unfold statusHandled; (repeat' split) <;> simp

@[simp] theorem bandEvent_frame (v : Millivolts) (s : State) :
    (bandEvent v s).nodeState = s.nodeState ∧ (bandEvent v s).config = s.config ∧
    (bandEvent v s).showClock = s.showClock ∧ (bandEvent v s).drainDeadline = s.drainDeadline ∧
    (bandEvent v s).bus = s.bus ∧ (bandEvent v s).intake = s.intake ∧ (bandEvent v s).roster = s.roster ∧
    (bandEvent v s).cues = s.cues ∧ (bandEvent v s).stack = s.stack ∧ (bandEvent v s).base = s.base ∧
    (bandEvent v s).ports = s.ports ∧ (bandEvent v s).pwm = s.pwm ∧ (bandEvent v s).pending = s.pending := by
  unfold bandEvent; (try dsimp only); (repeat' split) <;> simp

@[simp] theorem settleTimerExpiry_frame (s : State) :
    (settleTimerExpiry s).nodeState = s.nodeState ∧ (settleTimerExpiry s).config = s.config ∧
    (settleTimerExpiry s).showClock = s.showClock ∧ (settleTimerExpiry s).drainDeadline = s.drainDeadline ∧
    (settleTimerExpiry s).bus = s.bus ∧ (settleTimerExpiry s).intake = s.intake ∧
    (settleTimerExpiry s).roster = s.roster ∧ (settleTimerExpiry s).cues = s.cues ∧
    (settleTimerExpiry s).stack = s.stack ∧ (settleTimerExpiry s).base = s.base ∧
    (settleTimerExpiry s).ports = s.ports ∧ (settleTimerExpiry s).pwm = s.pwm ∧
    (settleTimerExpiry s).pending = s.pending := by
  unfold settleTimerExpiry; (repeat' split) <;> simp

@[simp] theorem releaseTimerExpiry_frame (s : State) :
    (releaseTimerExpiry s).nodeState = s.nodeState ∧ (releaseTimerExpiry s).config = s.config ∧
    (releaseTimerExpiry s).showClock = s.showClock ∧ (releaseTimerExpiry s).drainDeadline = s.drainDeadline ∧
    (releaseTimerExpiry s).bus = s.bus ∧ (releaseTimerExpiry s).intake = s.intake ∧
    (releaseTimerExpiry s).roster = s.roster ∧ (releaseTimerExpiry s).cues = s.cues ∧
    (releaseTimerExpiry s).stack = s.stack ∧ (releaseTimerExpiry s).base = s.base ∧
    (releaseTimerExpiry s).ports = s.ports ∧ (releaseTimerExpiry s).pwm = s.pwm ∧
    (releaseTimerExpiry s).pending = s.pending := by
  unfold releaseTimerExpiry; (repeat' split) <;> simp

@[simp] theorem presenceDelivered_frame (s : State) :
    (presenceDelivered s).nodeState = s.nodeState ∧ (presenceDelivered s).config = s.config ∧
    (presenceDelivered s).showClock = s.showClock ∧ (presenceDelivered s).drainDeadline = s.drainDeadline ∧
    (presenceDelivered s).supply = s.supply ∧ (presenceDelivered s).cues = s.cues ∧
    (presenceDelivered s).stack = s.stack ∧ (presenceDelivered s).base = s.base ∧
    (presenceDelivered s).ports = s.ports ∧ (presenceDelivered s).pwm = s.pwm ∧
    (presenceDelivered s).pending = s.pending := by
  unfold presenceDelivered; (repeat' split) <;> simp

@[simp] theorem capDelivered_frame (s : State) :
    (capDelivered s).nodeState = s.nodeState ∧ (capDelivered s).config = s.config ∧
    (capDelivered s).showClock = s.showClock ∧ (capDelivered s).drainDeadline = s.drainDeadline ∧
    (capDelivered s).bus = s.bus ∧ (capDelivered s).out = s.out ∧ (capDelivered s).supply = s.supply ∧
    (capDelivered s).cues = s.cues ∧ (capDelivered s).stack = s.stack ∧ (capDelivered s).base = s.base ∧
    (capDelivered s).ports = s.ports ∧ (capDelivered s).pwm = s.pwm ∧ (capDelivered s).status = s.status ∧
    (capDelivered s).pending = s.pending := by
  unfold capDelivered; (repeat' split) <;> simp

@[simp] theorem absenceExpiry_frame (i : Fin 31) (s : State) :
    (absenceExpiry i s).nodeState = s.nodeState ∧ (absenceExpiry i s).config = s.config ∧
    (absenceExpiry i s).showClock = s.showClock ∧ (absenceExpiry i s).drainDeadline = s.drainDeadline ∧
    (absenceExpiry i s).bus = s.bus ∧ (absenceExpiry i s).intake = s.intake ∧
    (absenceExpiry i s).supply = s.supply ∧ (absenceExpiry i s).base = s.base ∧
    (absenceExpiry i s).ports = s.ports ∧ (absenceExpiry i s).pwm = s.pwm ∧
    (absenceExpiry i s).pending = s.pending := by
  unfold absenceExpiry; (repeat' split) <;> simp

@[simp] theorem presenceTimerExpiry_frame (s : State) :
    (presenceTimerExpiry s).nodeState = s.nodeState ∧ (presenceTimerExpiry s).config = s.config ∧
    (presenceTimerExpiry s).showClock = s.showClock ∧ (presenceTimerExpiry s).drainDeadline = s.drainDeadline ∧
    (presenceTimerExpiry s).bus = s.bus ∧ (presenceTimerExpiry s).intake = s.intake ∧
    (presenceTimerExpiry s).level = s.level ∧ (presenceTimerExpiry s).supply = s.supply ∧
    (presenceTimerExpiry s).cues = s.cues ∧ (presenceTimerExpiry s).stack = s.stack ∧
    (presenceTimerExpiry s).base = s.base ∧ (presenceTimerExpiry s).ports = s.ports ∧
    (presenceTimerExpiry s).pwm = s.pwm ∧ (presenceTimerExpiry s).pending = s.pending := by
  unfold presenceTimerExpiry; (try dsimp only); (repeat' split) <;> simp

@[simp] theorem attemptStart_frame (gap : Gap) (s : State) :
    (attemptStart gap s).nodeState = s.nodeState ∧ (attemptStart gap s).config = s.config ∧
    (attemptStart gap s).showClock = s.showClock ∧
    (attemptStart gap s).drainDeadline = s.drainDeadline ∧ (attemptStart gap s).intake = s.intake ∧
    (attemptStart gap s).roster = s.roster ∧ (attemptStart gap s).level = s.level ∧
    (attemptStart gap s).supply = s.supply ∧ (attemptStart gap s).cues = s.cues ∧
    (attemptStart gap s).stack = s.stack ∧ (attemptStart gap s).base = s.base ∧
    (attemptStart gap s).ports = s.ports ∧ (attemptStart gap s).pwm = s.pwm ∧
    (attemptStart gap s).status = s.status ∧ (attemptStart gap s).pending = s.pending := by
  unfold attemptStart; (try dsimp only); (repeat' split) <;> simp

@[simp] theorem attemptSent_frame (s : State) :
    (attemptSent s).nodeState = s.nodeState ∧ (attemptSent s).config = s.config ∧
    (attemptSent s).showClock = s.showClock ∧ (attemptSent s).drainDeadline = s.drainDeadline ∧
    (attemptSent s).intake = s.intake ∧ (attemptSent s).level = s.level ∧ (attemptSent s).supply = s.supply ∧
    (attemptSent s).cues = s.cues ∧ (attemptSent s).stack = s.stack ∧ (attemptSent s).base = s.base ∧
    (attemptSent s).ports = s.ports ∧ (attemptSent s).pwm = s.pwm ∧ (attemptSent s).pending = s.pending := by
  unfold attemptSent; (try dsimp only); (repeat' split) <;> simp

@[simp] theorem attemptVoided_frame (s : State) :
    (attemptVoided s).nodeState = s.nodeState ∧ (attemptVoided s).config = s.config ∧
    (attemptVoided s).showClock = s.showClock ∧ (attemptVoided s).drainDeadline = s.drainDeadline ∧
    (attemptVoided s).intake = s.intake ∧ (attemptVoided s).roster = s.roster ∧
    (attemptVoided s).level = s.level ∧ (attemptVoided s).supply = s.supply ∧ (attemptVoided s).cues = s.cues ∧
    (attemptVoided s).stack = s.stack ∧ (attemptVoided s).base = s.base ∧ (attemptVoided s).ports = s.ports ∧
    (attemptVoided s).pwm = s.pwm ∧ (attemptVoided s).pending = s.pending := by
  unfold attemptVoided; (repeat' split) <;> simp

@[simp] theorem readbackFault_frame (position : Nat) (bit : LineBit) (s : State) :
    (readbackFault position bit s).nodeState = s.nodeState ∧ (readbackFault position bit s).config = s.config ∧
    (readbackFault position bit s).showClock = s.showClock ∧
    (readbackFault position bit s).drainDeadline = s.drainDeadline ∧
    (readbackFault position bit s).intake = s.intake ∧ (readbackFault position bit s).roster = s.roster ∧
    (readbackFault position bit s).level = s.level ∧ (readbackFault position bit s).supply = s.supply ∧
    (readbackFault position bit s).cues = s.cues ∧ (readbackFault position bit s).stack = s.stack ∧
    (readbackFault position bit s).base = s.base ∧ (readbackFault position bit s).ports = s.ports ∧
    (readbackFault position bit s).pwm = s.pwm ∧ (readbackFault position bit s).pending = s.pending := by
  unfold readbackFault; (repeat' split) <;> simp

@[simp] theorem contentionLost_frame (headerBit : Fin 12) (s : State) :
    (contentionLost headerBit s).nodeState = s.nodeState ∧ (contentionLost headerBit s).config = s.config ∧
    (contentionLost headerBit s).showClock = s.showClock ∧
    (contentionLost headerBit s).drainDeadline = s.drainDeadline ∧
    (contentionLost headerBit s).intake = s.intake ∧ (contentionLost headerBit s).roster = s.roster ∧
    (contentionLost headerBit s).level = s.level ∧ (contentionLost headerBit s).supply = s.supply ∧
    (contentionLost headerBit s).cues = s.cues ∧ (contentionLost headerBit s).stack = s.stack ∧
    (contentionLost headerBit s).base = s.base ∧ (contentionLost headerBit s).ports = s.ports ∧
    (contentionLost headerBit s).pwm = s.pwm ∧ (contentionLost headerBit s).status = s.status ∧
    (contentionLost headerBit s).pending = s.pending := by
  unfold contentionLost; (repeat' split) <;> simp

@[simp] theorem lineStuckCondition_frame (dominant : Nanos) (s : State) :
    (lineStuckCondition dominant s).nodeState = s.nodeState ∧
    (lineStuckCondition dominant s).config = s.config ∧
    (lineStuckCondition dominant s).showClock = s.showClock ∧
    (lineStuckCondition dominant s).drainDeadline = s.drainDeadline ∧
    (lineStuckCondition dominant s).intake = s.intake ∧ (lineStuckCondition dominant s).roster = s.roster ∧
    (lineStuckCondition dominant s).level = s.level ∧ (lineStuckCondition dominant s).supply = s.supply ∧
    (lineStuckCondition dominant s).cues = s.cues ∧ (lineStuckCondition dominant s).stack = s.stack ∧
    (lineStuckCondition dominant s).base = s.base ∧ (lineStuckCondition dominant s).ports = s.ports ∧
    (lineStuckCondition dominant s).pwm = s.pwm ∧ (lineStuckCondition dominant s).pending = s.pending := by
  unfold lineStuckCondition; (try dsimp only); (repeat' split) <;> simp

@[simp] theorem silentRecovery_frame (recessive : Nanos) (s : State) :
    (silentRecovery recessive s).nodeState = s.nodeState ∧ (silentRecovery recessive s).config = s.config ∧
    (silentRecovery recessive s).showClock = s.showClock ∧
    (silentRecovery recessive s).drainDeadline = s.drainDeadline ∧ (silentRecovery recessive s).out = s.out ∧
    (silentRecovery recessive s).intake = s.intake ∧ (silentRecovery recessive s).roster = s.roster ∧
    (silentRecovery recessive s).level = s.level ∧ (silentRecovery recessive s).supply = s.supply ∧
    (silentRecovery recessive s).cues = s.cues ∧ (silentRecovery recessive s).stack = s.stack ∧
    (silentRecovery recessive s).base = s.base ∧ (silentRecovery recessive s).ports = s.ports ∧
    (silentRecovery recessive s).pwm = s.pwm ∧ (silentRecovery recessive s).status = s.status ∧
    (silentRecovery recessive s).pending = s.pending := by
  unfold silentRecovery; (try dsimp only); (repeat' split) <;> simp

@[simp] theorem quietPeriodExpiry_frame (s : State) :
    (quietPeriodExpiry s).nodeState = s.nodeState ∧ (quietPeriodExpiry s).config = s.config ∧
    (quietPeriodExpiry s).showClock = s.showClock ∧ (quietPeriodExpiry s).drainDeadline = s.drainDeadline ∧
    (quietPeriodExpiry s).intake = s.intake ∧ (quietPeriodExpiry s).roster = s.roster ∧
    (quietPeriodExpiry s).level = s.level ∧ (quietPeriodExpiry s).supply = s.supply ∧
    (quietPeriodExpiry s).cues = s.cues ∧ (quietPeriodExpiry s).stack = s.stack ∧
    (quietPeriodExpiry s).base = s.base ∧ (quietPeriodExpiry s).ports = s.ports ∧
    (quietPeriodExpiry s).pwm = s.pwm ∧ (quietPeriodExpiry s).pending = s.pending := by
  unfold quietPeriodExpiry; (try dsimp only); (repeat' split) <;> simp

@[simp] theorem frameVoided_frame (bits : List LineBit) (s : State) :
    (frameVoided bits s).nodeState = s.nodeState ∧ (frameVoided bits s).config = s.config ∧
    (frameVoided bits s).showClock = s.showClock ∧ (frameVoided bits s).drainDeadline = s.drainDeadline ∧
    (frameVoided bits s).intake = s.intake ∧ (frameVoided bits s).roster = s.roster ∧
    (frameVoided bits s).level = s.level ∧ (frameVoided bits s).supply = s.supply ∧
    (frameVoided bits s).cues = s.cues ∧ (frameVoided bits s).stack = s.stack ∧
    (frameVoided bits s).base = s.base ∧ (frameVoided bits s).ports = s.ports ∧
    (frameVoided bits s).pwm = s.pwm ∧ (frameVoided bits s).pending = s.pending := by
  unfold frameVoided; (repeat' split) <;> simp

@[simp] theorem frameDiscarded_frame (bits : List LineBit) (s : State) :
    (frameDiscarded bits s).nodeState = s.nodeState ∧ (frameDiscarded bits s).config = s.config ∧
    (frameDiscarded bits s).showClock = s.showClock ∧ (frameDiscarded bits s).drainDeadline = s.drainDeadline ∧
    (frameDiscarded bits s).intake = s.intake ∧ (frameDiscarded bits s).roster = s.roster ∧
    (frameDiscarded bits s).level = s.level ∧ (frameDiscarded bits s).supply = s.supply ∧
    (frameDiscarded bits s).cues = s.cues ∧ (frameDiscarded bits s).stack = s.stack ∧
    (frameDiscarded bits s).base = s.base ∧ (frameDiscarded bits s).ports = s.ports ∧
    (frameDiscarded bits s).pwm = s.pwm ∧ (frameDiscarded bits s).pending = s.pending := by
  unfold frameDiscarded; (repeat' split) <;> simp

@[simp] theorem frameCutShort_frame (bits : List LineBit) (s : State) :
    (frameCutShort bits s).nodeState = s.nodeState ∧ (frameCutShort bits s).config = s.config ∧
    (frameCutShort bits s).showClock = s.showClock ∧ (frameCutShort bits s).drainDeadline = s.drainDeadline ∧
    (frameCutShort bits s).intake = s.intake ∧ (frameCutShort bits s).roster = s.roster ∧
    (frameCutShort bits s).level = s.level ∧ (frameCutShort bits s).supply = s.supply ∧
    (frameCutShort bits s).cues = s.cues ∧ (frameCutShort bits s).stack = s.stack ∧
    (frameCutShort bits s).base = s.base ∧ (frameCutShort bits s).ports = s.ports ∧
    (frameCutShort bits s).pwm = s.pwm ∧ (frameCutShort bits s).pending = s.pending := by
  unfold frameCutShort; (repeat' split) <;> simp

@[simp] theorem wakingEdge_frame (s : State) :
    (wakingEdge s).config = s.config ∧ (wakingEdge s).showClock = s.showClock ∧
    (wakingEdge s).drainDeadline = s.drainDeadline ∧ (wakingEdge s).bus = s.bus ∧ (wakingEdge s).out = s.out ∧
    (wakingEdge s).intake = s.intake ∧ (wakingEdge s).roster = s.roster ∧ (wakingEdge s).level = s.level ∧
    (wakingEdge s).supply = s.supply ∧ (wakingEdge s).cues = s.cues ∧ (wakingEdge s).stack = s.stack ∧
    (wakingEdge s).base = s.base ∧ (wakingEdge s).ports = s.ports ∧ (wakingEdge s).pwm = s.pwm ∧
    (wakingEdge s).status = s.status ∧ (wakingEdge s).pending = s.pending := by
  unfold wakingEdge; (repeat' split) <;> simp

@[simp] theorem startBit_frame (gap : Gap) (s : State) :
    (startBit gap s).config = s.config ∧ (startBit gap s).showClock = s.showClock ∧
    (startBit gap s).drainDeadline = s.drainDeadline ∧ (startBit gap s).out = s.out ∧
    (startBit gap s).intake = s.intake ∧ (startBit gap s).roster = s.roster ∧
    (startBit gap s).level = s.level ∧ (startBit gap s).supply = s.supply ∧
    (startBit gap s).cues = s.cues ∧ (startBit gap s).stack = s.stack ∧
    (startBit gap s).base = s.base ∧ (startBit gap s).ports = s.ports ∧
    (startBit gap s).pwm = s.pwm ∧ (startBit gap s).status = s.status ∧
    (startBit gap s).pending = s.pending := by
  unfold startBit; (repeat' split) <;> simp

@[simp] theorem lineNoise_frame (gap : Gap) (s : State) :
    (lineNoise gap s).config = s.config ∧ (lineNoise gap s).showClock = s.showClock ∧
    (lineNoise gap s).drainDeadline = s.drainDeadline ∧ (lineNoise gap s).out = s.out ∧
    (lineNoise gap s).intake = s.intake ∧ (lineNoise gap s).roster = s.roster ∧
    (lineNoise gap s).level = s.level ∧ (lineNoise gap s).supply = s.supply ∧
    (lineNoise gap s).cues = s.cues ∧ (lineNoise gap s).stack = s.stack ∧
    (lineNoise gap s).base = s.base ∧ (lineNoise gap s).ports = s.ports ∧
    (lineNoise gap s).pwm = s.pwm ∧ (lineNoise gap s).status = s.status ∧
    (lineNoise gap s).pending = s.pending := by
  unfold lineNoise; (repeat' split) <;> simp

@[simp] theorem frameTaken_frame (bits : List LineBit) (s : State) :
    (frameTaken bits s).nodeState = s.nodeState ∧ (frameTaken bits s).config = s.config ∧
    (frameTaken bits s).showClock = s.showClock ∧ (frameTaken bits s).drainDeadline = s.drainDeadline ∧
    (frameTaken bits s).level = s.level ∧ (frameTaken bits s).supply = s.supply ∧
    (frameTaken bits s).cues = s.cues ∧ (frameTaken bits s).stack = s.stack ∧
    (frameTaken bits s).base = s.base ∧ (frameTaken bits s).ports = s.ports ∧ (frameTaken bits s).pwm = s.pwm ∧
    (frameTaken bits s).pending = s.pending := by
  unfold frameTaken; (repeat' split) <;> simp

@[simp] theorem resetRelease_frame (s : State) :
    (resetRelease s).config = s.config ∧ (resetRelease s).showClock = s.showClock ∧
    (resetRelease s).drainDeadline = s.drainDeadline ∧ (resetRelease s).bus = s.bus ∧
    (resetRelease s).out = s.out ∧ (resetRelease s).intake = s.intake ∧ (resetRelease s).roster = s.roster ∧
    (resetRelease s).level = s.level ∧ (resetRelease s).supply = s.supply ∧ (resetRelease s).cues = s.cues ∧
    (resetRelease s).stack = s.stack ∧ (resetRelease s).base = s.base ∧ (resetRelease s).ports = s.ports ∧
    (resetRelease s).pwm = s.pwm ∧ (resetRelease s).status = s.status ∧ (resetRelease s).pending = s.pending := by
  unfold resetRelease; (repeat' split) <;> simp

@[simp] theorem configReadFailure_frame (byte0 : Byte) (s : State) :
    (configReadFailure byte0 s).config = s.config ∧ (configReadFailure byte0 s).showClock = s.showClock ∧
    (configReadFailure byte0 s).drainDeadline = s.drainDeadline ∧ (configReadFailure byte0 s).bus = s.bus ∧
    (configReadFailure byte0 s).out = s.out ∧ (configReadFailure byte0 s).intake = s.intake ∧
    (configReadFailure byte0 s).roster = s.roster ∧ (configReadFailure byte0 s).level = s.level ∧
    (configReadFailure byte0 s).supply = s.supply ∧ (configReadFailure byte0 s).cues = s.cues ∧
    (configReadFailure byte0 s).stack = s.stack ∧ (configReadFailure byte0 s).base = s.base ∧
    (configReadFailure byte0 s).ports = s.ports ∧ (configReadFailure byte0 s).pwm = s.pwm ∧
    (configReadFailure byte0 s).status = s.status ∧ (configReadFailure byte0 s).pending = s.pending := by
  unfold configReadFailure; (repeat' split) <;> simp

@[simp] theorem configReadRetry_frame (s : State) :
    (configReadRetry s).config = s.config ∧ (configReadRetry s).showClock = s.showClock ∧
    (configReadRetry s).drainDeadline = s.drainDeadline ∧ (configReadRetry s).bus = s.bus ∧
    (configReadRetry s).out = s.out ∧ (configReadRetry s).intake = s.intake ∧
    (configReadRetry s).roster = s.roster ∧ (configReadRetry s).level = s.level ∧
    (configReadRetry s).supply = s.supply ∧ (configReadRetry s).cues = s.cues ∧
    (configReadRetry s).stack = s.stack ∧ (configReadRetry s).base = s.base ∧
    (configReadRetry s).ports = s.ports ∧ (configReadRetry s).pwm = s.pwm ∧
    (configReadRetry s).status = s.status ∧ (configReadRetry s).pending = s.pending := by
  unfold configReadRetry; (repeat' split) <;> simp

@[simp] theorem configReadDone_frame (record : List Byte) (v : Millivolts) (s : State) :
    (configReadDone record v s).pending = s.pending := by
  unfold configReadDone; (repeat' split) <;> simp

@[simp] theorem wakingEnd_frame (v : Millivolts) (s : State) :
    (wakingEnd v s).config = s.config ∧ (wakingEnd v s).pending = s.pending := by
  unfold wakingEnd; (repeat' split) <;> simp

end Sys2Proof.Machine
end

