-- ==== Sys2Proof/Laws/Running.lean ====
section
/-! SUPPORT. Which commands leave the node running or not running, and how `State.running` is computed. -/

namespace Sys2Proof.Machine

theorem State.running_congr {s t : State} (h : t.nodeState = s.nodeState) : t.running = s.running := by
  simp [State.running, h]

theorem State.isDraining_congr {s t : State} (h : t.nodeState = s.nodeState) : t.isDraining = s.isDraining := by
  simp [State.isDraining, h]

theorem State.running_eq_true {s : State} :
    s.running = true ↔ s.nodeState = .active ∨ ∃ p, s.nodeState = .draining p := by
  unfold State.running; split <;> simp_all

theorem State.isDraining_eq_true {s : State} : s.isDraining = true ↔ ∃ p, s.nodeState = .draining p := by
  unfold State.isDraining; split <;> simp_all

@[simp] theorem State.beginDarkPhase_running (s : State) : s.beginDarkPhase.running = true := rfl

@[simp] theorem State.beginDarkPhase_nodeState (s : State) : s.beginDarkPhase.nodeState = .draining .dark := rfl

theorem State.darkCheck_running {s : State} (h : s.running = true) : s.darkCheck.running = true := by
  unfold State.darkCheck; split
  · rfl
  · exact h

/-- The drain check keeps the node running or not running. -/
@[simp] theorem State.drainCheck_running (s : State) : s.drainCheck.running = s.running := by
  unfold State.drainCheck
  split <;> rename_i h
  · have hr : s.running = true := by simp [State.running, h]
    split
    · rw [State.darkCheck_running (s.beginDarkPhase_running), hr]
    · rfl
  · have hr : s.running = true := by simp [State.running, h]
    rw [State.darkCheck_running hr, hr]
  all_goals rfl

@[simp] theorem State.complete_running (s : State) (effect : State → State) :
    (s.complete effect).running = (effect { s with intake := { s.intake with slot := none } }).running := rfl

@[simp] theorem State.sleep_running (s : State) (d : Byte) : (s.sleep d).running = s.running := by
  unfold State.sleep
  split <;> rename_i h
  · rw [State.drainCheck_running]; simp [State.running, State.beginDrain, h]
  all_goals rfl

@[simp] theorem State.wake_running (s : State) : s.wake.running = s.running := by
  unfold State.wake
  split <;> rename_i h
  · simp [State.running, h]
  all_goals rfl

@[simp] theorem transitionStep_running (s : State) : (transitionStep s).running = s.running := by
  unfold transitionStep; (repeat' split) <;> first
    | rfl
    | (simp only [State.drainCheck_running]
       rfl)

@[simp] theorem drainTimerExpiry_running (s : State) : (drainTimerExpiry s).running = s.running := by
  unfold drainTimerExpiry; split <;> rename_i h
  · rw [State.darkCheck_running s.beginDarkPhase_running]
    simp only [Bool.and_eq_true, decide_eq_true_eq] at h
    simp [State.running, h.1]
  · rfl

@[simp] theorem layerPhaseAdvance_running (k : CueKey) (s : State) : (layerPhaseAdvance k s).running = s.running := by
  unfold layerPhaseAdvance; (repeat' split) <;> first
    | rfl
    | (simp only [State.drainCheck_running]
       first | rfl | exact State.running_congr (by simp))

@[simp] theorem fadeStep_running (k : CueKey) (s : State) : (fadeStep k s).running = s.running := by
  unfold fadeStep; (repeat' split) <;> first
    | rfl
    | (simp only [State.drainCheck_running]
       rfl)

@[simp] theorem cancelHandled_running (s : State) : (cancelHandled s).running = s.running := by
  unfold cancelHandled; (repeat' split) <;> first
    | rfl
    | (simp only [State.drainCheck_running, State.complete_running]
       rfl)

@[simp] theorem sleepHandled_running (s : State) : (sleepHandled s).running = s.running := by
  unfold sleepHandled; (repeat' split) <;> first
    | rfl
    | (simp only [State.complete_running, State.sleep_running]
       rfl)

@[simp] theorem wakeHandled_running (s : State) : (wakeHandled s).running = s.running := by
  unfold wakeHandled; (repeat' split) <;> first
    | rfl
    | (simp only [State.complete_running, State.wake_running]
       rfl)

/-- A glide that has taken no step stands at its start. -/
@[simp] theorem glide_zero (a b : Byte) (t : Nat) : glide a b 0 t = a := by simp [glide, byteOf]

/-- Where no frame is on the line, or one is left past a long pulse, none is being sent. -/
theorem BusPort.inAttempt_of_idleAt {b : BusPort} {g : Gap} (h : b.idleAt g = true) :
    b.inAttempt = false ∧ b.line ≠ .unwatched := by
  unfold BusPort.idleAt BusPort.idleFrom at h
  unfold BusPort.inAttempt
  split at h <;> simp_all

end Sys2Proof.Machine
end

