-- ==== Sys2Proof/Laws/Bus.lean ====
section
/-! SUPPORT. The bus port's commands keep `BusSound`. -/

namespace Sys2Proof.Machine

theorem BusSound.of_eq {s t : State} (h : BusSound s) (hb : t.bus = s.bus) (hc : t.config = s.config)
    (hr : t.running = s.running) : BusSound t := by
  obtain ⟨h1, h2, h3, h4, h5, h6, h7, h8, h9, h10, h11⟩ := h
  constructor <;> simp_all

theorem BusSound.of_frame {s t : State} (h : BusSound s) (hb : t.bus = s.bus) (hc : t.config = s.config)
    (hn : t.nodeState = s.nodeState) : BusSound t := h.of_eq hb hc (State.running_congr hn)

theorem BusSound.powerOn (r : Reader) (q : List Instr) : BusSound (State.powerOn r q) := by
  constructor <;> simp [State.powerOn, BusPort.powerOn, State.running, BusPort.inAttempt]

theorem BusSound.activated {s : State} : BusSound s.activated := by
  constructor <;> simp [State.activated, BusPort.powerOn, State.running, BusPort.inAttempt]

theorem BusSound.enterActive {s : State} (v : Millivolts) : BusSound (s.enterActive v) :=
  BusSound.activated (s := s) |>.of_frame (by simp [State.enterActive]) (by simp [State.enterActive]) (by simp [State.enterActive])

theorem State.attemptVoided_sound {s : State} (h : BusSound s) (hr : s.running = true) (ha : s.bus.inAttempt = true) :
    BusSound s.attemptVoided := by
  have hs := h.attempt ha
  obtain ⟨h1, h2, h3, h4, h5, h6, h7, h8, h9, h10, h11⟩ := h
  unfold State.attemptVoided State.countVoid
  split
  · constructor <;> simp_all [State.running, BusPort.inAttempt]
  · constructor <;> simp_all [State.running, BusPort.inAttempt, State.enterListenOnly, BusPort.quiet]

theorem attemptVoided_sound {s : State} (h : BusSound s) : BusSound (attemptVoided s) := by
  unfold attemptVoided; split
  · rename_i hg; simp only [Bool.and_eq_true] at hg; exact State.attemptVoided_sound h hg.1 hg.2
  · exact h

/-- A running node that is not SILENT may follow the line in any way that is no attempt. -/
theorem BusSound.watch {s : State} (h : BusSound s) (hr : s.running = true) (hs : s.bus.standing ≠ .silent)
    {l : LineWatch} (hw : l ≠ .unwatched) (hl : ∀ f, l ≠ .sending f) : BusSound (s.watch l) := by
  obtain ⟨h1, h2, h3, h4, h5, h6, h7, h8, h9, h10, h11⟩ := h
  have hr' : (s.watch l).running = true := hr
  refine ⟨h1, h2, h3, h4, h5, h6, h7, h8, fun ha => ?_, ?_, fun _ hn => absurd hn hs⟩
  · cases l <;> simp_all [BusPort.inAttempt]
  · simp [hr', hw]

theorem State.attemptVoided_standing {s : State} (h : BusSound s) (ha : s.bus.inAttempt = true) :
    s.attemptVoided.bus.standing ≠ .silent := by
  have hs := h.attempt ha
  unfold State.attemptVoided State.countVoid
  split <;> simp_all [State.enterListenOnly, BusPort.quiet]

theorem State.endRest_sound {s : State} (h : BusSound s) : BusSound s.endRest := by
  unfold State.endRest; split
  · rename_i hg; simp only [Bool.and_eq_true, decide_eq_true_eq] at hg
    exact h.watch hg.1.1 hg.1.2 (by simp) (by simp)
  · exact h

theorem BusPort.inAttempt_of_frame {b : BusPort} {f : Frame} (h : b.frame? = some f) : b.inAttempt = true := by
  unfold BusPort.frame? at h; unfold BusPort.inAttempt; split at h <;> simp_all

theorem readbackFault_sound {s : State} (h : BusSound s) (p : Nat) (b : LineBit) : BusSound (readbackFault p b s) := by
  unfold readbackFault; split
  · rename_i hf; split
    · rename_i hg; simp only [Bool.and_eq_true] at hg
      have hb : BusSound (s.raise .bitFault) := h.of_frame (by simp) (by simp) (by simp)
      have ha := BusPort.inAttempt_of_frame hf
      refine (State.attemptVoided_sound hb hg.1 ha).watch ?_ (State.attemptVoided_standing hb ha) (by simp) (by simp)
      exact (State.running_congr (by simp)).trans hg.1
    · exact h
  · exact h

theorem attemptStart_sound {s : State} (h : BusSound s) (g : Gap) : BusSound (attemptStart g s) := by
  unfold attemptStart; split
  · split
    · rename_i hg; simp only [State.maySend, Bool.and_eq_true, decide_eq_true_eq] at hg
      obtain ⟨⟨hr, hs⟩, -⟩ := hg
      obtain ⟨h1, h2, h3, h4, h5, h6, h7, h8, h9, h10, h11⟩ := h
      constructor <;> simp_all [State.running, BusPort.inAttempt]
    · exact h
  · exact h

theorem attemptSent_sound {s : State} (h : BusSound s) : BusSound (attemptSent s) := by
  unfold attemptSent; split
  · rename_i hg; simp only [Bool.and_eq_true] at hg
    have hs := h.attempt hg.2
    obtain ⟨h1, h2, h3, h4, h5, h6, h7, h8, h9, h10, h11⟩ := h
    dsimp only
    split <;> constructor <;> simp_all [State.running, BusPort.inAttempt]
  · exact h

theorem contentionLost_sound {s : State} (h : BusSound s) (k : Fin 12) : BusSound (contentionLost k s) := by
  unfold contentionLost; split
  · rename_i hf; split
    · rename_i hg; simp only [Bool.and_eq_true] at hg
      have hs := h.attempt (BusPort.inAttempt_of_frame hf)
      obtain ⟨h1, h2, h3, h4, h5, h6, h7, h8, h9, h10, h11⟩ := h
      constructor <;> simp_all [State.running, BusPort.inAttempt]
    · exact h
  · exact h

theorem lineStuckCondition_sound {s : State} (h : BusSound s) (n : Nanos) : BusSound (lineStuckCondition n s) := by
  unfold lineStuckCondition; split
  · rename_i hg; simp only [Bool.and_eq_true] at hg
    obtain ⟨h1, h2, h3, h4, h5, h6, h7, h8, h9, h10, h11⟩ := h
    dsimp only
    split <;> constructor <;> simp_all [State.running, BusPort.inAttempt, BusPort.silence, BusPort.isOutside]
  · exact h

theorem silentRecovery_sound {s : State} (h : BusSound s) (n : Nanos) : BusSound (silentRecovery n s) := by
  unfold silentRecovery; split
  · rename_i hg; simp only [Bool.and_eq_true] at hg
    obtain ⟨h1, h2, h3, h4, h5, h6, h7, h8, h9, h10, h11⟩ := h
    constructor <;> simp_all [State.running, BusPort.inAttempt, BusPort.quiet, BusPort.isOutside]
  · exact h

theorem State.toSpeaking_sound {s : State} (h : BusSound s) (hl : s.bus.standing = .listenOnly) :
    BusSound s.toSpeaking := by
  obtain ⟨h1, h2, h3, h4, h5, h6, h7, h8, h9, h10, h11⟩ := h
  unfold State.toSpeaking
  constructor <;> simp_all [State.running, BusPort.inAttempt]

theorem quietPeriodExpiry_sound {s : State} (h : BusSound s) : BusSound (quietPeriodExpiry s) := by
  unfold quietPeriodExpiry; split
  · rename_i hg; simp only [Bool.and_eq_true, decide_eq_true_eq] at hg
    split
    · exact State.toSpeaking_sound h hg.1.2
    · obtain ⟨h1, h2, h3, h4, h5, h6, h7, h8, h9, h10, h11⟩ := h
      constructor <;> simp_all [State.running, BusPort.inAttempt]
  · exact h

theorem State.countFrame_sound {s : State} (h : BusSound s) (f : Bool) : BusSound (s.countFrame f) := by
  obtain ⟨h1, h2, h3, h4, h5, h6, h7, h8, h9, h10, h11⟩ := h
  unfold State.countFrame State.countFault BusPort.countClean
  split
  · split <;> constructor <;> simp_all [State.running, BusPort.inAttempt, BusPort.isOutside]
  · constructor <;> simp_all [State.running, BusPort.inAttempt, BusPort.isOutside]
  · constructor <;> simp_all [State.running, BusPort.inAttempt, BusPort.isOutside]
  · split <;> constructor <;> simp_all [State.running, BusPort.inAttempt, BusPort.isOutside]

theorem State.endFrame_sound {s : State} (h : BusSound s) (hg : s.receives = true) (v : Vote) (f : Bool) :
    BusSound (s.endFrame v f) := by
  apply State.countFrame_sound
  simp only [State.receives, Bool.and_eq_true, decide_eq_true_eq] at hg
  obtain ⟨⟨hr, hs⟩, hl⟩ := hg
  obtain ⟨h1, h2, h3, h4, h5, h6, h7, h8, h9, h10, h11⟩ := h
  constructor <;> simp_all [State.running, BusPort.inAttempt]

theorem frames_sound {s : State} (h : BusSound s) (bits : List LineBit) :
    BusSound (frameTaken bits s) ∧ BusSound (frameVoided bits s) ∧ BusSound (frameDiscarded bits s) ∧
      BusSound (frameCutShort bits s) := by
  have hrest := State.endRest_sound h
  unfold frameTaken frameVoided frameDiscarded frameCutShort
  refine ⟨?_, ?_, ?_, ?_⟩
  · split
    · split
      · rename_i hg
        refine State.endFrame_sound (h.of_frame (by simp) (by simp) (by simp)) ?_ _ _
        simpa [State.receives, State.running] using hg
      · exact hrest
    · exact h
  · split
    · split
      · rename_i hg; exact State.endFrame_sound h hg _ _
      · exact hrest
    · exact h
  · split
    · split
      · rename_i hg; split
        · exact State.endFrame_sound h hg _ _
        · exact h
      · exact hrest
    · exact h
  · split
    · split
      · rename_i hg; split
        · simp only [State.receives, Bool.and_eq_true, decide_eq_true_eq] at hg
          exact h.watch hg.1.1 hg.1.2 (by simp) (by simp)
        · exact State.endFrame_sound h hg _ _
      · exact hrest
    · exact h

theorem wakingEdge_sound {s : State} (h : BusSound s) : BusSound (wakingEdge s) := by
  unfold wakingEdge; split
  · rename_i ha; exact h.of_eq rfl rfl (by simp [State.running, ha])
  · exact h

theorem edges_sound {s : State} (h : BusSound s) (g : Gap) : BusSound (startBit g s) ∧ BusSound (lineNoise g s) := by
  have hw := wakingEdge_sound h
  unfold startBit lineNoise
  refine ⟨?_, ?_⟩
  all_goals
    split
    · rename_i hg; simp only [Bool.and_eq_true] at hg
      have hr := hg.1
      split
      · obtain ⟨h1, h2, h3, h4, h5, h6, h7, h8, h9, h10, h11⟩ := h
        constructor <;> simp_all [State.running, BusPort.inAttempt, BusPort.isOutside]
      · split
        · obtain ⟨h1, h2, h3, h4, h5, h6, h7, h8, h9, h10, h11⟩ := h
          constructor <;> simp_all [State.running, BusPort.inAttempt, BusPort.isOutside]
        · exact h
    · exact hw

theorem presenceDelivered_sound {s : State} (h : BusSound s) : BusSound (presenceDelivered s) := by
  unfold presenceDelivered; split
  · split
    · unfold State.deliverPresence
      have hb : ∀ t : State, t.bus = s.bus → t.config = s.config → t.nodeState = s.nodeState → ∀ k,
          BusSound (if t.endsQuiet k = true then t.toSpeaking else t) := by
        intro t h1 h2 h3 k
        have ht := h.of_frame h1 h2 h3
        split
        · rename_i hg; simp only [State.endsQuiet, Bool.and_eq_true, decide_eq_true_eq] at hg
          exact State.toSpeaking_sound ht hg.1.1
        · exact ht
      dsimp only
      apply hb <;> split <;> simp
    · exact h
  · exact h

theorem enterAsleep_sound {s : State} (h : BusSound s) : BusSound (enterAsleep s) := by
  unfold enterAsleep; split
  · obtain ⟨h1, h2, h3, h4, h5, h6, h7, h8, h9, h10, h11⟩ := h
    constructor <;> simp_all [State.running, State.fallAsleep, BusPort.inAttempt]
  · exact h

end Sys2Proof.Machine
end

