-- ==== Sys2Proof/Laws/Config.lean ====
section
/-! SUPPORT. A good record gives a legal configuration. -/

namespace Sys2Proof.Machine
theorem segmentsApart_covers {g h : Segment} (ha : segmentsApart g h = true) : ∀ k pixel, ¬(Segment.covers g k pixel = true ∧ Segment.covers h k pixel = true) := by
  intro k p ⟨h1, h2⟩
  simp only [Segment.covers, decide_eq_true_eq] at h1 h2
  simp only [segmentsApart, Bool.or_eq_true, decide_eq_true_eq] at ha
  rcases ha with (ha | ha) | ha
  · exact ha (h1.1.trans h2.1.symm)
  · omega
  · omega
theorem allApart_pairwise : ∀ gs, allApart gs = true → gs.Pairwise fun g h : Segment => ∀ k pixel, ¬(Segment.covers g k pixel = true ∧ Segment.covers h k pixel = true)
  | [], _ => .nil
  | g :: gs, h => by
    simp only [allApart, Bool.and_eq_true, List.all_eq_true] at h
    exact List.pairwise_cons.2 ⟨fun x hx => segmentsApart_covers (h.1 x hx), allApart_pairwise gs h.2⟩
theorem routeOf_legal {r : List Byte} {k : Nat} (h : routeLegal r k = true) : RouteEntry.Legal (field (recByte r 1) 0 5) (routeOf r k) := by
  have e : (routeOf r k).predecessors = predecessorsOf r k := rfl
  have key : ∀ p : ZoneNo, predecessorLegal (field (recByte r 1) 0 5) p = true → p ≠ 31 ∧ p ≠ field (recByte r 1) 0 5 := by
    intro p hp; simp only [predecessorLegal, Bool.and_eq_true, decide_eq_true_eq, bne_iff_ne] at hp
    exact ⟨fun h0 => by rw [h0] at hp; exact absurd hp.1 (by decide), hp.2⟩
  have hp2 : predecessorCount r k ≤ 2 := by unfold routeLegal at h; dsimp only at h; split at h <;> simp_all
  have h012 : predecessorCount r k = 0 ∨ predecessorCount r k = 1 ∨ predecessorCount r k = 2 := by omega
  unfold routeLegal at h; dsimp only at h
  rcases h012 with hc | hc | hc
  · have hp : (routeOf r k).predecessors = [] := by rw [e]; simp [predecessorsOf, hc]
    refine ⟨?_, ?_, ?_⟩ <;> rw [hp] <;> simp
  · rw [hc] at h; simp only [Bool.and_eq_true] at h
    have hp : (routeOf r k).predecessors = [field (recByte r (35 + 4 * k)) 0 5] := by rw [e]; simp [predecessorsOf, hc]
    refine ⟨by rw [hp]; simp, by rw [hp]; simp, fun z hz => ?_⟩
    rw [hp, List.mem_singleton] at hz; rw [hz]; exact key _ h.1
  · rw [hc] at h; simp only [Bool.and_eq_true] at h
    by_cases hs : field (recByte r (35 + 4 * k)) 0 5 = field (recByte r (36 + 4 * k)) 0 5
    · have hp : (routeOf r k).predecessors = [field (recByte r (35 + 4 * k)) 0 5] := by
        rw [e]; simp [predecessorsOf, hc, hs]
      refine ⟨by rw [hp]; simp, by rw [hp]; simp, fun z hz => ?_⟩
      rw [hp, List.mem_singleton] at hz; rw [hz]; exact key _ h.1
    · have hp : (routeOf r k).predecessors = [field (recByte r (35 + 4 * k)) 0 5, field (recByte r (36 + 4 * k)) 0 5] := by
        rw [e]; simp [predecessorsOf, hc, hs]
      refine ⟨by rw [hp]; simp, by rw [hp]; simp [hs], fun z hz => ?_⟩
      rw [hp] at hz
      rcases List.mem_cons.1 hz with rfl | hz
      · exact key _ h.1
      · rw [List.mem_singleton.1 hz]; exact key _ h.2

theorem portOf_legal {r : List Byte} (k : Fin 4) (h : portLegal r k = true) : PortConfig.Legal k (portOf r k) := by
  unfold portLegal at h; dsimp only at h
  simp only [Bool.and_eq_true, Bool.or_eq_true, decide_eq_true_eq] at h
  obtain ⟨⟨⟨h1, h2⟩, h3⟩, h4⟩ := h
  have hf : ∀ x, (framePeriodOf x) ∈ [5,10,20,30] := by decide
  have hr : ∀ x, (refreshOf x) ∈ [50,100,150,200] := by decide
  refine ⟨⟨fun ht => ?_, fun ht => ?_⟩, fun ht => ?_, fun ht => ?_, fun ht => ?_, fun ht => ?_, fun ht => ?_, hf _, hr _⟩
  all_goals try (rw [ht] at h1 h2; simpa [typeAllowed, countAllowed] using h1)
  all_goals try (rw [ht] at h1 h2; simpa [typeAllowed, countAllowed] using h2)
  rcases h4 with h4 | h4
  · exact h4
  · rw [ht] at h4; cases h4
theorem configOf_legal {r : List Byte} (h : recordGood r = true) : NodeConfig.Legal (configOf r) := by
  simp only [recordGood, Bool.and_eq_true, recordLegal, decide_eq_true_eq, List.all_eq_true, List.mem_range, bne_iff_ne] at h
  obtain ⟨_, ⟨⟨⟨⟨⟨⟨⟨h1, h2⟩, h3⟩, h4⟩, h5⟩, h6⟩, h7⟩, h8⟩⟩ := h
  simp only [segmentsLegal, Bool.and_eq_true, decide_eq_true_eq, List.all_eq_true] at h7
  obtain ⟨⟨⟨h71, h72⟩, h73⟩, h74⟩ := h7
  have hp : ∀ k : Fin 4, (configOf r).ports[k] = portOf r k := by intro k; simp [configOf]
  refine ⟨?_, h3, h4, fun k => ?_, ?_, by simpa [configOf] using h71, ?_, ?_, fun k => ?_⟩
  · intro h0; simp only [configOf] at h0; rw [h0] at h2; exact absurd h2 (by decide)
  · rw [hp]; exact portOf_legal k (h5 k k.2)
  · simp [configOf, portOf]; simp [pixelTotal, List.range_succ] at h6; omega
  · intro g hg
    have hg' : g ∈ (List.range (segmentCount r)).map (segmentOf r) := hg
    have := h72 g hg'
    rw [hp]
    simp only [segmentLegal, Bool.and_eq_true, decide_eq_true_eq] at this
    exact ⟨this.1.1, this.1.2, this.2⟩
  · exact allApart_pairwise _ h73
  · have : (configOf r).routes[k] = routeOf r k := by simp [configOf]
    rw [this]; exact routeOf_legal (h8 k k.2)
end Sys2Proof.Machine
end

