-- ==== Sys2Proof/Laws/Cue.lean ====
section
/-! SUPPORT. The layer stack and the cue list: their operations keep `CueSound`. -/

namespace Sys2Proof.Machine

/-! ## The order of the stack -/

theorem Layer.above_trans {a b c : Layer} (h1 : a.above b = true) (h2 : b.above c = true) : a.above c = true := by
  simp only [Layer.above, Bool.or_eq_true, Bool.and_eq_true, decide_eq_true_eq] at *
  rcases h1 with h1 | ⟨h1, h1'⟩ <;> rcases h2 with h2 | ⟨h2, h2'⟩
  · left; omega
  · left; rw [← h2]; exact h1
  · left; rw [h1]; exact h2
  · right; exact ⟨h1.trans h2, h2'.trans h1'⟩

theorem Layer.above_total {a b : Layer} (h : a.startOrder ≠ b.startOrder) (h1 : ¬a.above b = true) : b.above a = true := by
  simp only [Layer.above, Bool.or_eq_true, Bool.and_eq_true, decide_eq_true_eq] at *
  by_cases hp : a.shape.priority = b.shape.priority
  · right; refine ⟨hp.symm, ?_⟩; by_contra h0; exact h1 (Or.inr ⟨hp, by omega⟩)
  · left
    have : a.shape.priority.toNat ≠ b.shape.priority.toNat := fun h0 => hp (BitVec.eq_of_toNat_eq h0)
    by_contra h0; exact h1 (Or.inl (by omega))

theorem placeLayer_perm (l : Layer) : ∀ ls, (placeLayer l ls).Perm (l :: ls)
  | [] => .refl _
  | x :: xs => by
    unfold placeLayer; split
    · exact .refl _
    · exact ((placeLayer_perm l xs).cons x).trans (.swap l x xs)

theorem placeLayer_stacked (l : Layer) : ∀ ls : List Layer, (ls.Pairwise fun a b => b.above a = true) →
    (∀ x ∈ ls, x.startOrder ≠ l.startOrder) → (placeLayer l ls).Pairwise fun a b => b.above a = true
  | [], _, _ => by simp [placeLayer]
  | x :: xs, hp, hn => by
    rw [List.pairwise_cons] at hp
    unfold placeLayer; split
    · rename_i hx
      refine List.pairwise_cons.2 ⟨?_, List.pairwise_cons.2 hp⟩
      intro y hy
      rcases List.mem_cons.1 hy with rfl | hy
      · exact hx
      · exact Layer.above_trans (hp.1 y hy) hx
    · rename_i hx
      refine List.pairwise_cons.2 ⟨?_, placeLayer_stacked l xs hp.2 fun y hy => hn y (List.mem_cons_of_mem _ hy)⟩
      intro y hy
      rcases List.mem_cons.1 ((placeLayer_perm l xs).mem_iff.1 hy) with rfl | hy
      · exact Layer.above_total (hn x List.mem_cons_self) hx
      · exact hp.1 y hy

/-! ## The stack and the list together -/

/-- The part of `CueSound` that no node state bears on; the record of the key `k`, if any, may be unsettled. -/
structure CueCore (k : Option CueKey) (s : State) : Prop where
  cues : ∀ c ∈ s.cues, some c.key ≠ k → c.Sound s.config
  cueCount : s.cues.length ≤ 8
  cueKeys : (s.cues.map CueRecord.key).Nodup
  layers : ∀ l ∈ s.stack.layers, l.Sound
  layerCount : s.stack.layers.length ≤ 6
  layerKeys : (s.stack.layers.map Layer.key).Nodup
  stacked : s.stack.layers.Pairwise fun a b => b.above a = true
  orders : (s.stack.layers.map Layer.startOrder).Nodup
  counter : ∀ l ∈ s.stack.layers, l.startOrder < s.stack.nextStart
  oneHome : ∀ c ∈ s.cues, ∀ l ∈ s.stack.layers, c.key ≠ l.key

theorem CueSound.core {s : State} (h : CueSound s) : CueCore none s :=
  ⟨fun c hc _ => h.cues c hc, h.cueCount, h.cueKeys, h.layers, h.layerCount, h.layerKeys, h.stacked, h.orders, h.counter,
    h.oneHome⟩

theorem CueCore.weaken {s : State} (h : CueCore none s) (k : Option CueKey) : CueCore k s :=
  ⟨fun c hc _ => h.cues c hc (by simp), h.cueCount, h.cueKeys, h.layers, h.layerCount, h.layerKeys, h.stacked, h.orders,
    h.counter, h.oneHome⟩

theorem CueCore.of_frame {k : Option CueKey} {s t : State} (h : CueCore k s) (hc : t.cues = s.cues) (hs : t.stack = s.stack)
    (hg : t.config = s.config) : CueCore k t := by
  obtain ⟨h1, h2, h3, h4, h5, h6, h7, h8, h9, h10⟩ := h
  refine ⟨by rw [hc, hg]; exact h1, by rw [hc]; exact h2, by rw [hc]; exact h3, by rw [hs]; exact h4, by rw [hs]; exact h5,
    by rw [hs]; exact h6, by rw [hs]; exact h7, by rw [hs]; exact h8, by rw [hs]; exact h9, by rw [hc, hs]; exact h10⟩

/-- A layer keeps what names and places it. -/
structure SamePlace (a b : Layer) : Prop where
  key : b.key = a.key
  priority : b.shape.priority = a.shape.priority
  order : b.startOrder = a.startOrder

theorem SamePlace.above {a a' b b' : Layer} (ha : SamePlace a a') (hb : SamePlace b b') : b'.above a' = b.above a := by
  simp only [Layer.above, ha.priority, ha.order, hb.priority, hb.order]

theorem SamePlace.refl (a : Layer) : SamePlace a a := ⟨rfl, rfl, rfl⟩

/-- Layers change or go, in their places; records stay or go. -/
theorem CueCore.filterMap {k : Option CueKey} {s t : State} (h : CueCore k s) (f : Layer → Option Layer)
    (hf : ∀ a b, a ∈ s.stack.layers → f a = some b → SamePlace a b ∧ b.Sound)
    (hl : t.stack.layers = s.stack.layers.filterMap f) (hn : s.stack.nextStart ≤ t.stack.nextStart)
    (hc : t.cues.Sublist s.cues) (hg : t.config = s.config) : CueCore k t := by
  obtain ⟨h1, h2, h3, h4, h5, h6, h7, h8, h9, h10⟩ := h
  have hm : ∀ b ∈ t.stack.layers, ∃ a ∈ s.stack.layers, SamePlace a b ∧ b.Sound := by
    intro b hb; rw [hl] at hb; obtain ⟨a, ha, hab⟩ := List.mem_filterMap.1 hb; exact ⟨a, ha, hf a b ha hab⟩
  refine ⟨fun c hcm hk => by rw [hg]; exact h1 c (hc.subset hcm) hk, hc.length_le.trans h2, (hc.map _).nodup h3,
    fun b hb => (hm b hb).choose_spec.2.2, ?_, ?_, ?_, ?_, ?_, ?_⟩
  · rw [hl]; exact (List.length_filterMap_le _ _).trans h5
  · rw [hl, List.nodup_iff_pairwise_ne, List.pairwise_map, List.pairwise_filterMap]
    rw [List.nodup_iff_pairwise_ne, List.pairwise_map] at h6
    exact h6.imp_of_mem fun ha hb hab x hx y hy => by
      rw [(hf _ _ ha hx).1.key, (hf _ _ hb hy).1.key]; exact hab
  · rw [hl, List.pairwise_filterMap]
    exact h7.imp_of_mem fun ha hb hab x hx y hy => by rw [(hf _ _ ha hx).1.above (hf _ _ hb hy).1]; exact hab
  · rw [hl, List.nodup_iff_pairwise_ne, List.pairwise_map, List.pairwise_filterMap]
    rw [List.nodup_iff_pairwise_ne, List.pairwise_map] at h8
    exact h8.imp_of_mem fun ha hb hab x hx y hy => by
      rw [(hf _ _ ha hx).1.order, (hf _ _ hb hy).1.order]; exact hab
  · intro b hb; obtain ⟨a, ha, hab, _⟩ := hm b hb; rw [hab.order]; exact (h9 a ha).trans_le hn
  · intro c hcm b hb; obtain ⟨a, ha, hab, _⟩ := hm b hb; rw [hab.key]; exact h10 c (hc.subset hcm) a ha

theorem updateLayer_eq_filterMap (k : CueKey) (f : Layer → Layer) (ls : List Layer) :
    updateLayer k f ls = ls.filterMap fun l => some (if l.key = k then f l else l) := by
  simp [updateLayer, List.filterMap_eq_map']

theorem removeLayer_eq_filterMap (k : CueKey) (ls : List Layer) :
    removeLayer k ls = ls.filterMap fun l => if l.key = k then none else some l := by
  unfold removeLayer
  induction ls with
  | nil => rfl
  | cons x xs ih =>
    rw [List.filter_cons, List.filterMap_cons]
    by_cases h : x.key = k
    · rw [if_pos h]; simpa [h] using ih
    · rw [if_neg h]; simpa [h] using ih

theorem CueCore.update {k : Option CueKey} {s : State} (h : CueCore k s) (key : CueKey) (f : Layer → Layer)
    (hf : ∀ a ∈ s.stack.layers, a.key = key → SamePlace a (f a) ∧ (f a).Sound) :
    CueCore k (s.setLayers (updateLayer key f s.stack.layers)) := by
  refine h.filterMap _ ?_ (updateLayer_eq_filterMap key f _) le_rfl (List.Sublist.refl _) rfl
  intro a b ha hb; cases hb
  split
  · rename_i hk; exact hf a ha hk
  · exact ⟨.refl a, h.layers a ha⟩

theorem CueCore.remove {k : Option CueKey} {s : State} (h : CueCore k s) (key : CueKey) :
    CueCore k (s.setLayers (removeLayer key s.stack.layers)) := by
  refine h.filterMap _ ?_ (removeLayer_eq_filterMap key _) le_rfl (List.Sublist.refl _) rfl
  intro a b ha hb; split at hb
  · cases hb
  · cases hb; exact ⟨.refl a, h.layers a ha⟩

theorem CueCore.replace {k : Option CueKey} {s : State} (h : CueCore k s) (key : CueKey) (r : Option Layer)
    (hr : ∀ a ∈ s.stack.layers, a.key = key → ∀ b, r = some b → SamePlace a b ∧ b.Sound) :
    CueCore k (s.setLayers (replaceLayer key r s.stack.layers)) := by
  unfold replaceLayer; split
  · rename_i l; exact h.update key _ fun a ha hk => hr a ha hk l rfl
  · exact h.remove key

theorem findLayer_some {k : CueKey} {ls : List Layer} {l : Layer} (h : findLayer k ls = some l) : l ∈ ls ∧ l.key = k := by
  unfold findLayer at h
  exact ⟨List.mem_of_find?_eq_some h, by simpa using List.find?_some h⟩

theorem findLayer_none {k : CueKey} {ls : List Layer} (h : findLayer k ls = none) : ∀ l ∈ ls, l.key ≠ k := by
  unfold findLayer at h; simpa using h

theorem findCue_some {k : CueKey} {cs : List CueRecord} {c : CueRecord} (h : findCue k cs = some c) : c ∈ cs ∧ c.key = k := by
  unfold findCue at h
  exact ⟨List.mem_of_find?_eq_some h, by simpa using List.find?_some h⟩

theorem findCue_none {k : CueKey} {cs : List CueRecord} (h : findCue k cs = none) : ∀ c ∈ cs, c.key ≠ k := by
  unfold findCue at h; simpa using h

/-- Two members of one list with the same value of a key that no two share are one. -/
theorem eq_of_key {α β : Type} {f : α → β} {ls : List α} (h : (ls.map f).Nodup) {a b : α} (ha : a ∈ ls) (hb : b ∈ ls)
    (hk : f a = f b) : a = b := List.inj_on_of_nodup_map h ha hb hk

/-! ## Layers of the stack -/

theorem CueCore.giveHandoff {k : Option CueKey} {s : State} (h : CueCore k s) (l : Layer) : CueCore k (s.giveHandoff l) := by
  unfold State.giveHandoff
  have h1 := h.update l.key (fun x => { x with spent := true })
    fun a ha _ => ⟨⟨rfl, rfl, rfl⟩, (by
      obtain ⟨g1, g2, g3, g4, g5, g6⟩ := h.layers a ha
      exact ⟨g1, g2, g3, g4, g5, g6⟩)⟩
  exact h1.of_frame (by simp) (by simp) (by simp)

theorem CueCore.checkDue {k : Option CueKey} {s : State} (h : CueCore k s) (key : CueKey) : CueCore k (s.checkDue key) := by
  unfold State.checkDue; (repeat' split)
  · exact h.giveHandoff _
  all_goals exact h

/-- A layer of a new key and order is placed. -/
theorem CueCore.place {k : Option CueKey} {s t : State} (h : CueCore k s) {l : Layer} (hl : l.Sound)
    (hc : t.cues = s.cues) (hg : t.config = s.config) (hs : t.stack.layers = placeLayer l s.stack.layers)
    (hn : t.stack.nextStart = s.stack.nextStart)
    (hlen : s.stack.layers.length < 6) (hk : ∀ x ∈ s.stack.layers, x.key ≠ l.key)
    (ho : ∀ x ∈ s.stack.layers, x.startOrder ≠ l.startOrder) (hlt : l.startOrder < s.stack.nextStart)
    (hhome : ∀ c ∈ s.cues, c.key ≠ l.key) : CueCore k t := by
  obtain ⟨h1, h2, h3, h4, h5, h6, h7, h8, h9, h10⟩ := h
  have hp := placeLayer_perm l s.stack.layers
  have hm : ∀ x, x ∈ t.stack.layers ↔ x = l ∨ x ∈ s.stack.layers := by
    intro x; rw [hs, hp.mem_iff, List.mem_cons]
  refine ⟨by rw [hc, hg]; exact h1, by rw [hc]; exact h2, by rw [hc]; exact h3, ?_, ?_, ?_, ?_, ?_, ?_, ?_⟩
  · intro x hx; rcases (hm x).1 hx with rfl | hx
    · exact hl
    · exact h4 x hx
  · rw [hs, hp.length_eq, List.length_cons]; omega
  · rw [hs, (hp.map _).nodup_iff, List.map_cons, List.nodup_cons]
    refine ⟨fun h0 => ?_, h6⟩
    obtain ⟨x, hx, hxk⟩ := List.mem_map.1 h0; exact hk x hx hxk
  · rw [hs]; exact placeLayer_stacked l _ h7 ho
  · rw [hs, (hp.map _).nodup_iff, List.map_cons, List.nodup_cons]
    refine ⟨fun h0 => ?_, h8⟩
    obtain ⟨x, hx, hxk⟩ := List.mem_map.1 h0; exact ho x hx hxk
  · intro x hx; rw [hn]; rcases (hm x).1 hx with rfl | hx
    · exact hlt
    · exact h9 x hx
  · intro c hcm x hx; rw [hc] at hcm; rcases (hm x).1 hx with rfl | hx
    · exact hhome c hcm
    · exact h10 c hcm x hx

theorem CueCore.placeNew {k : Option CueKey} {s : State} (h : CueCore k s) {l : Layer} (hl : l.Sound)
    (hlen : s.stack.layers.length < 6) (hk : ∀ x ∈ s.stack.layers, x.key ≠ l.key)
    (ho : ∀ x ∈ s.stack.layers, x.startOrder ≠ l.startOrder) (hlt : l.startOrder < s.stack.nextStart)
    (hhome : ∀ c ∈ s.cues, c.key ≠ l.key) : CueCore k (s.placeNew l) :=
  (h.place (t := s.setLayers (placeLayer l s.stack.layers)) hl rfl rfl rfl rfl hlen hk ho hlt hhome).checkDue _

theorem removeLayer_length {x : Layer} {xs : List Layer} : (removeLayer x.key (x :: xs)).length ≤ xs.length := by
  simp only [removeLayer, List.filter_cons, ne_eq, not_true_eq_false, decide_false, Bool.false_eq_true, if_false]
  exact List.length_filter_le _ _

theorem CueCore.insertLayer {k : Option CueKey} {s : State} (h : CueCore k s) {l : Layer} (hl : l.Sound)
    (hk : ∀ x ∈ s.stack.layers, x.key ≠ l.key) (ho : ∀ x ∈ s.stack.layers, x.startOrder ≠ l.startOrder)
    (hlt : l.startOrder < s.stack.nextStart) (hhome : ∀ c ∈ s.cues, c.key ≠ l.key) : CueCore k (s.insertLayer l) := by
  unfold State.insertLayer; split
  · rename_i x xs hx
    split
    · exact h.placeNew hl (by rw [hx, List.length_cons]; omega) hk ho hlt hhome
    · unfold State.insertFull; split
      · have h1 : CueCore k ((((s.setLayers (removeLayer x.key s.stack.layers)).raise .layerEvicted).losersHandoff x)) :=
          (h.remove x.key).of_frame (by simp) (by simp) (by simp)
        have hst : ((((s.setLayers (removeLayer x.key s.stack.layers)).raise .layerEvicted).losersHandoff x)).stack =
          { s.stack with layers := removeLayer x.key s.stack.layers } := by simp; rfl
        have hcu : ((((s.setLayers (removeLayer x.key s.stack.layers)).raise .layerEvicted).losersHandoff x)).cues = s.cues := by
          simp
        have hsub : ∀ y ∈ removeLayer x.key s.stack.layers, y ∈ s.stack.layers := fun y hy => (List.mem_filter.1 hy).1
        refine h1.placeNew hl ?_ ?_ ?_ ?_ ?_
        · rw [hst]
          have h5 := h.layerCount
          rw [hx, List.length_cons] at h5
          have := removeLayer_length (x := x) (xs := xs)
          dsimp only; rw [hx]; omega
        · rw [hst]; exact fun y hy => hk y (hsub y hy)
        · rw [hst]; exact fun y hy => ho y (hsub y hy)
        · rw [hst]; exact hlt
        · rw [hcu]; exact hhome
      · exact h.of_frame (by simp) (by simp) (by simp)
  · rename_i hx
    exact h.placeNew hl (by rw [hx]; decide) hk ho hlt hhome

/-! ## Starting a cue -/

theorem CueRecord.layer_sound {c : CueRecord} (hk : c.key.wf = true) (hp : c.shape.period ≠ 0) (r : Bool) (n : Nat) :
    (c.layer r n).Sound := by
  have : 0 < c.shape.period.toNat := by
    rcases Nat.eq_zero_or_pos c.shape.period.toNat with h | h
    · exact absurd (BitVec.eq_of_toNat_eq h) hp
    · exact h
  exact ⟨hk, hp, Nat.zero_le _, fun _ => ⟨this, rfl, rfl⟩, fun h => (nomatch h), fun h => (nomatch h)⟩

theorem removeCue_sublist (k : CueKey) (cs : List CueRecord) : (removeCue k cs).Sublist cs := List.filter_sublist

theorem CueCore.startCue {s : State} {c : CueRecord} (h : CueCore (some c.key) s) (hw : c.key.wf = true)
    (hp : c.shape.period ≠ 0) (hn : ∀ l ∈ s.stack.layers, l.key ≠ c.key) : CueCore none (s.startCue c) := by
  unfold State.startCue
  have h1 : CueCore none { s with
      cues := removeCue c.key s.cues
      stack := { s.stack with nextStart := s.stack.nextStart + 1 } } := by
    have h2 := h.filterMap (t := { s with
      cues := removeCue c.key s.cues
      stack := { s.stack with nextStart := s.stack.nextStart + 1 } }) some
      (fun a b ha hb => by cases hb; exact ⟨.refl a, h.layers a ha⟩) (by simp) (by simp) (removeCue_sublist _ _) rfl
    obtain ⟨_, g2, g3, g4, g5, g6, g7, g8, g9, g10⟩ := h2
    refine ⟨fun x hx _ => ?_, g2, g3, g4, g5, g6, g7, g8, g9, g10⟩
    have := List.mem_filter.1 hx
    exact h.cues x this.1 (fun h0 => by simp_all)
  refine h1.insertLayer (CueRecord.layer_sound hw hp _ _) hn ?_ (by simp [CueRecord.layer]) ?_
  · intro x hx; exact Nat.ne_of_lt (h.counter x hx)
  · intro x hx; have := List.mem_filter.1 hx; simpa [CueRecord.layer] using this.2

theorem updateCue_keys {k : CueKey} {f : CueRecord → CueRecord} (hf : ∀ c, (f c).key = c.key) (cs : List CueRecord) :
    (updateCue k f cs).map CueRecord.key = cs.map CueRecord.key := by
  simp only [updateCue, List.map_map]
  exact List.map_congr_left fun c _ => by simp only [Function.comp_apply]; split <;> simp [hf]

/-- The record of one key changes in place and is sound again. -/
theorem CueCore.updateCue {s t : State} {k : CueKey} {k' : Option CueKey} (h : CueCore (some k) s) (f : CueRecord → CueRecord)
    (ht : t.cues = Machine.updateCue k f s.cues) (hs : t.stack = s.stack) (hg : t.config = s.config)
    (hf : ∀ c ∈ s.cues, c.key = k → (f c).key = k)
    (hsound : ∀ c ∈ s.cues, c.key = k → some k ≠ k' → (f c).Sound s.config) : CueCore k' t := by
  obtain ⟨h1, h2, h3, h4, h5, h6, h7, h8, h9, h10⟩ := h
  have hkeys : t.cues.map CueRecord.key = s.cues.map CueRecord.key := by
    rw [ht]; simp only [Machine.updateCue, List.map_map]
    exact List.map_congr_left fun c hc => by
      simp only [Function.comp_apply]; split
      · rename_i hk; rw [hf c hc hk, hk]
      · rfl
  refine ⟨?_, ?_, by rw [hkeys]; exact h3, by rw [hs]; exact h4, by rw [hs]; exact h5, by rw [hs]; exact h6,
    by rw [hs]; exact h7, by rw [hs]; exact h8, by rw [hs]; exact h9, ?_⟩
  · intro c hc hne
    rw [ht] at hc; obtain ⟨x, hx, rfl⟩ := List.mem_map.1 hc
    rw [hg]
    split at hne <;> rename_i hk
    · rw [if_pos hk]; exact hsound x hx hk (by rw [hf x hx hk] at hne; exact hne)
    · rw [if_neg hk]; exact h1 x hx (by simpa using hk)
  · rw [ht]; simpa [Machine.updateCue] using h2
  · intro c hc l hl
    rw [hs] at hl
    have : c.key ∈ s.cues.map CueRecord.key := by rw [← hkeys]; exact List.mem_map_of_mem hc
    obtain ⟨x, hx, hxk⟩ := List.mem_map.1 this
    rw [← hxk]; exact h10 x hx l hl

theorem CueCore.enterDelaying {s : State} {c : CueRecord} (h : CueCore (some c.key) s) (hw : c.key.wf = true)
    (hp : c.shape.period ≠ 0) (hn : ∀ l ∈ s.stack.layers, l.key ≠ c.key) (he : ∀ x ∈ s.cues, x.key = c.key → x = c) :
    CueCore none (s.enterDelaying c) := by
  unfold State.enterDelaying; split
  · exact CueCore.startCue (c := c.delayed s.showClock) h hw hp hn
  · rename_i hd
    refine CueCore.updateCue h (fun x => x.delayed s.showClock) rfl rfl rfl ?_ ?_
    · intro x _ hk; exact hk
    · intro x hx hk _; rw [he x hx hk]
      refine ⟨hw, hp, fun h0 => (nomatch h0), fun _ => ⟨rfl, ?_⟩⟩
      show (if c.startDelay = 0 then none else some (later s.showClock (10 * c.startDelay.toNat))).isSome = true
      rw [if_neg hd]; rfl

theorem CueCore.arm {s : State} {c : CueRecord} (h : CueCore (some c.key) s) (hw : c.key.wf = true)
    (hp : c.shape.period ≠ 0) (hn : ∀ l ∈ s.stack.layers, l.key ≠ c.key) : CueCore none (s.arm c) := by
  unfold State.arm; dsimp only
  have he : ∀ x ∈ Machine.updateCue c.key (fun _ => s.armed c) s.cues, x.key = c.key → x = s.armed c := by
    intro x hx hk; obtain ⟨y, _, rfl⟩ := List.mem_map.1 hx
    split
    · rfl
    · rename_i hy; rw [if_neg hy] at hk; exact absurd hk hy
  split
  · refine CueCore.enterDelaying (c := s.armed c) ?_ hw hp hn he
    exact CueCore.updateCue h (fun _ => s.armed c) rfl rfl rfl (fun _ _ _ => rfl) (fun _ _ _ h0 => absurd rfl h0)
  · rename_i hj
    simp only [Bool.or_eq_true, not_or] at hj
    refine CueCore.updateCue h (fun _ => s.armed c) rfl rfl rfl (fun _ _ _ => rfl) (fun _ _ _ _ => ?_)
    refine ⟨hw, hp, fun _ => ⟨?_, ?_, rfl, ?_⟩, fun h0 => nomatch h0⟩
    · intro h0; exact hj.1 (by simp [State.armed] at h0; simp [h0])
    · simpa [State.armed] using hj.2
    · have h1 : ((s.config.route c.route).predecessors).isEmpty = false := by simpa using hj.1
      simp only [State.armed, h1, Bool.false_or, decide_eq_true_eq]
      split <;> rename_i h2
      · exact ⟨fun h0 => (nomatch h0), fun h0 => absurd h2 h0⟩
      · exact ⟨fun _ => h2, fun _ => rfl⟩

theorem CueCore.arrive {s : State} {c : CueRecord} (h : CueCore none s) (hc : c ∈ s.cues) (hst : c.state = .awaitHandoff)
    (z : ZoneNo) : CueCore none (s.arrive c z) := by
  have hs := h.cues c hc (by simp)
  have hn : ∀ l ∈ s.stack.layers, l.key ≠ c.key := fun l hl h0 => h.oneHome c hc l hl h0.symm
  unfold State.arrive; dsimp only
  have he : ∀ x ∈ Machine.updateCue c.key (fun _ => { c with arrived := addArrived z c.arrived }) s.cues, x.key = c.key →
      x = { c with arrived := addArrived z c.arrived } := by
    intro x hx hk; obtain ⟨y, _, rfl⟩ := List.mem_map.1 hx
    split
    · rfl
    · rename_i hy; rw [if_neg hy] at hk; exact absurd hk hy
  split
  · refine CueCore.enterDelaying (c := { c with arrived := addArrived z c.arrived }) ?_ hs.key hs.period hn he
    exact CueCore.updateCue (h.weaken (some c.key)) (fun _ => { c with arrived := addArrived z c.arrived }) rfl rfl rfl
      (fun _ _ _ => rfl) (fun _ _ _ h0 => absurd rfl h0)
  · rename_i hj
    refine CueCore.updateCue (h.weaken (some c.key)) (fun _ => { c with arrived := addArrived z c.arrived }) rfl rfl rfl
      (fun _ _ _ => rfl) (fun _ _ _ _ => ?_)
    obtain ⟨g1, _, g3, g4⟩ := hs.awaiting hst
    exact ⟨hs.key, hs.period, fun _ => ⟨g1, by simpa using hj, g3, g4⟩, fun h0 => absurd (hst.symm.trans h0) (by decide)⟩

/-! ## CALL, HANDOFF, absence -/

theorem CueCore.recall {s : State} (h : CueCore none s) {c : CueRecord} (hc : c ∈ s.cues) (route : BitVec 3) {sh : Shape}
    (hp : sh.period ≠ 0) (d : Byte) : CueCore none (s.recall c route sh d) := by
  have hs := h.cues c hc (by simp)
  unfold State.recall; split
  · refine CueCore.updateCue (h.weaken (some c.key)) (fun x => { x with shape := sh, startDelay := d }) rfl rfl rfl
      (fun _ _ hk => hk) (fun x hx hk _ => ?_)
    have := h.cues x hx (by simp)
    exact ⟨this.key, hp, this.awaiting, this.delaying⟩
  · exact CueCore.arm (c := newCue c.key route sh d) (h.weaken _) hs.key hp
      fun l hl h0 => h.oneHome c hc l hl h0.symm

theorem CueCore.armNew {s : State} (h : CueCore none s) {c : CueRecord} (hlen : s.cues.length < 8) (hw : c.key.wf = true)
    (hp : c.shape.period ≠ 0) (hk : ∀ x ∈ s.cues, x.key ≠ c.key) (hn : ∀ l ∈ s.stack.layers, l.key ≠ c.key) :
    CueCore none (s.armNew c) := by
  obtain ⟨h1, h2, h3, h4, h5, h6, h7, h8, h9, h10⟩ := h
  refine CueCore.arm ?_ hw hp hn
  refine ⟨fun x hx hne => ?_, ?_, ?_, h4, h5, h6, h7, h8, h9, fun x hx l hl => ?_⟩
  · rcases List.mem_append.1 hx with hx | hx
    · exact h1 x hx (by simp)
    · rw [List.mem_singleton.1 hx] at hne; exact absurd rfl hne
  · simp only [List.length_append, List.length_cons, List.length_nil]; omega
  · simp only [List.map_append, List.map_cons, List.map_nil]
    refine List.nodup_append.2 ⟨h3, by simp, ?_⟩
    intro a ha b hb; obtain ⟨x, hx, rfl⟩ := List.mem_map.1 ha
    rw [List.mem_singleton.1 hb]; exact hk x hx
  · rcases List.mem_append.1 hx with hx | hx
    · exact h10 x hx l hl
    · rw [List.mem_singleton.1 hx]; exact fun h0 => hn l hl h0.symm

theorem CueCore.callCue {s : State} (h : CueCore none s) {key : CueKey} (hw : key.wf = true) (route : BitVec 3) {sh : Shape}
    (hp : sh.period ≠ 0) (d : Byte) (hn : ∀ l ∈ s.stack.layers, l.key ≠ key) : CueCore none (s.callCue key route sh d) := by
  unfold State.callCue; split
  · rename_i c hc; exact h.recall (findCue_some hc).1 route hp d
  · rename_i hc
    have hk := findCue_none hc
    unfold State.admitCall; split
    · rename_i hlen; exact h.armNew hlen hw hp hk hn
    · split
      · have h1 : CueCore none ({ s with cues := s.cues.tail }.raise .cueDisplaced) :=
          (h.filterMap (t := { s with cues := s.cues.tail }) some
            (fun a b ha hb => by cases hb; exact ⟨.refl a, h.layers a ha⟩) (by simp) le_rfl (List.tail_sublist _) rfl).of_frame
            (by simp) (by simp) (by simp)
        refine h1.armNew ?_ hw hp ?_ ?_
        · have := h.cueCount
          simp only [State.raise_frame, List.length_tail]; omega
        · simp only [State.raise_frame]; exact fun x hx => hk x (List.mem_of_mem_tail hx)
        · simp only [State.raise_frame]; exact hn
      · exact h.of_frame (by simp) (by simp) (by simp)

theorem CueCore.restyle {s : State} (h : CueCore none s) {l : Layer} (hl : l ∈ s.stack.layers) (hf : l.state ≠ .fading)
    {sh : Shape} (hp : sh.period ≠ 0) : CueCore none (s.restyle l sh) := by
  have hs := h.layers l hl
  have hpos : 0 < sh.period.toNat := by
    rcases Nat.eq_zero_or_pos sh.period.toNat with h | h
    · exact absurd (BitVec.eq_of_toNat_eq h) hp
    · exact h
  have hopen : l.fade = none ∧ l.opacity = 255 := by
    cases hst : l.state
    · exact (hs.running hst).2
    · exact ⟨(hs.held hst).2.1, (hs.held hst).2.2.1⟩
    · exact absurd hst hf
  have hrl : (l.restyle sh).Sound := by
    refine ⟨hs.key, hp, Nat.zero_le _, fun _ => ⟨hpos, hopen.1, hopen.2⟩, fun h0 => (nomatch h0), fun h0 => (nomatch h0)⟩
  unfold State.restyle
  refine CueCore.checkDue ?_ _
  have hsub : ∀ y ∈ removeLayer l.key s.stack.layers, y ∈ s.stack.layers ∧ y.key ≠ l.key := fun y hy => by
    have := List.mem_filter.1 hy; exact ⟨this.1, by simpa using this.2⟩
  refine (h.remove l.key).place (t := s.setLayers (placeLayer (l.restyle sh) (removeLayer l.key s.stack.layers))) hrl rfl rfl rfl
    rfl ?_ (fun y hy => (hsub y hy).2) ?_ (h.counter l hl) (fun c hc => h.oneHome c hc l hl)
  · have h5 := h.layerCount
    have : (removeLayer l.key s.stack.layers).length < s.stack.layers.length := by
      refine List.length_filter_lt_length_iff_exists.2 ⟨l, hl, by simp⟩
    show (removeLayer l.key s.stack.layers).length < 6
    omega
  · intro y hy h0
    have := hsub y hy
    exact this.2 (congrArg Layer.key (eq_of_key h.orders this.1 hl h0))

theorem CueCore.settleCall {s : State} (h : CueCore none s) {key : CueKey} (hw : key.wf = true) (route : BitVec 3) {sh : Shape}
    (hp : sh.period ≠ 0) (d : Byte) : CueCore none (s.settleCall key route sh d) := by
  unfold State.settleCall; split
  · exact h
  split
  · rename_i l hl
    have hm := findLayer_some hl
    split
    · exact (h.remove key).callCue hw route hp d fun y hy => by
        have := List.mem_filter.1 hy; simpa using this.2
    · rename_i hf; exact h.restyle hm.1 hf hp
  · rename_i hl; exact h.callCue hw route hp d (findLayer_none hl)

theorem CueCore.settleHandoff {s : State} (h : CueCore none s) (z : ZoneNo) (key : CueKey) (route : BitVec 3) :
    CueCore none (s.settleHandoff z key route) := by
  unfold State.settleHandoff; (repeat' split)
  · exact h
  · rename_i c hc hg; exact h.arrive (findCue_some hc).1 hg.2 z
  all_goals exact h

theorem CueCore.signalCue {s : State} (h : CueCore none s) (z : ZoneNo) (key : CueKey) : CueCore none (s.signalCue z key) := by
  unfold State.signalCue; (repeat' split)
  · rename_i c hc hg; exact h.arrive (findCue_some hc).1 hg.1 z
  all_goals exact h

theorem CueCore.signalAbsence {s : State} (h : CueCore none s) (z : ZoneNo) : CueCore none (s.signalAbsence z) := by
  unfold State.signalAbsence
  generalize s.cues.map CueRecord.key = ks
  induction ks generalizing s with
  | nil => exact h
  | cons k ks ih => exact ih (h.signalCue z k)

/-! ## Phase and fades -/

theorem byteOf_toNat (b : Byte) : byteOf b.toNat = b := by simp [byteOf]

theorem Layer.beginFade_sound {l : Layer} (h : l.Sound) {t : Nat} (ht : 0 < t) (now : Clock) : (l.beginFade t now).Sound := by
  obtain ⟨g1, g2, g3, g4, g5, g6⟩ := h
  refine ⟨g1, g2, g3, fun h0 => (nomatch h0), fun h0 => (nomatch h0), fun _ => ⟨?_, ⟨l.opacity, t, 0, later now 10⟩, rfl, ht, ?_⟩⟩
  · show l.phase ≤ l.shape.period.toNat
    cases hst : l.state
    · exact (g4 hst).1.le
    · exact (g5 hst).1.le
    · exact (g6 hst).1
  · show l.opacity = _
    simp [byteOf_toNat]

theorem Layer.advance_sound {l : Layer} (h : l.Sound) (ha : l.advancing = true) {m : Layer} (hm : l.advance = some m) :
    SamePlace l m ∧ m.Sound ∧ m.shape = l.shape := by
  obtain ⟨g1, g2, g3, g4, g5, g6⟩ := h
  have hpos : 0 < l.shape.period.toNat := by
    rcases Nat.eq_zero_or_pos l.shape.period.toNat with h | h
    · exact absurd (BitVec.eq_of_toNat_eq h) g2
    · exact h
  unfold Layer.advance at hm
  dsimp only at hm
  unfold Layer.advancing at ha
  have hlt : l.phase < l.shape.period.toNat := by
    cases hst : l.state
    · exact (g4 hst).1
    · rw [hst] at ha; cases ha
    · rw [hst] at ha; simpa using ha
  have hheld : l.state ≠ .held := fun h0 => by rw [h0] at ha; cases ha
  split at hm <;> rename_i hp
  · unfold Layer.endRun at hm; dsimp only at hm
    split at hm
    · cases hm
      exact ⟨⟨rfl, rfl, rfl⟩, ⟨g1, g2, Nat.zero_le _, fun h0 => ⟨hpos, (g4 h0).2⟩, fun h0 => absurd h0 hheld,
        fun h0 => ⟨Nat.zero_le _, (g6 h0).2⟩⟩, rfl⟩
    · rename_i hl
      split at hm
      · cases hm
      · split at hm <;> rename_i hst
        · cases hm
          exact ⟨⟨rfl, rfl, rfl⟩, ⟨g1, g2, Nat.zero_le _, fun h0 => (nomatch h0),
            fun _ => ⟨hp, (g4 hst).2.1, (g4 hst).2.2, by simpa using hl⟩, fun h0 => (nomatch h0)⟩, rfl⟩
        · exact absurd hst hheld
        · cases hm
          exact ⟨⟨rfl, rfl, rfl⟩, ⟨g1, g2, Nat.zero_le _, fun h0 => absurd (hst.symm.trans h0) (by decide),
            fun h0 => absurd (hst.symm.trans h0) (by decide), fun h0 => ⟨hp.le, (g6 hst).2⟩⟩, rfl⟩
  · cases hm
    exact ⟨⟨rfl, rfl, rfl⟩, ⟨g1, g2, Nat.zero_le _, fun h0 => ⟨by dsimp only at hp ⊢; omega, (g4 h0).2⟩,
      fun h0 => absurd h0 hheld, fun h0 => ⟨by dsimp only at hp ⊢; omega, (g6 h0).2⟩⟩, rfl⟩

theorem Layer.fadeOnce_sound {l : Layer} (h : l.Sound) (hst : l.state = .fading) {f : Fade}
    {m : Layer} (hm : l.fadeOnce f = some m) : SamePlace l m ∧ m.Sound ∧ m.shape = l.shape := by
  obtain ⟨g1, g2, g3, g4, g5, g6⟩ := h
  unfold Layer.fadeOnce at hm; dsimp only at hm; split at hm
  · rename_i hj; cases hm
    exact ⟨⟨rfl, rfl, rfl⟩, ⟨g1, g2, g3, fun h0 => absurd (hst.symm.trans h0) (by decide),
      fun h0 => absurd (hst.symm.trans h0) (by decide), fun _ => ⟨(g6 hst).1, _, rfl, hj, rfl⟩⟩, rfl⟩
  · cases hm

theorem Layer.tick_sound {l : Layer} (h : l.Sound) : SamePlace l l.tick ∧ l.tick.Sound ∧ l.tick.shape = l.shape := by
  unfold Layer.tick; split
  · rename_i hg; simp only [Bool.and_eq_true, decide_eq_true_eq] at hg
    obtain ⟨g1, g2, g3, g4, g5, g6⟩ := h
    exact ⟨⟨rfl, rfl, rfl⟩, ⟨g1, g2, hg.2, g4, g5, g6⟩, rfl⟩
  · exact ⟨.refl l, h, rfl⟩

theorem Layer.singleRun_sound {l : Layer} (h : l.Sound) : SamePlace l l.singleRun ∧ l.singleRun.Sound := by
  obtain ⟨g1, g2, g3, g4, g5, g6⟩ := h
  exact ⟨⟨rfl, rfl, rfl⟩, ⟨g1, g2, g3, g4, fun h0 => ⟨(g5 h0).1, (g5 h0).2.1, (g5 h0).2.2.1, rfl⟩, g6⟩⟩

/-! ## The whole -/

theorem CueSound.of_core {s t : State} (h : CueSound s) (hc : CueCore none t) (hn : t.nodeState = s.nodeState)
    (hf : t.intake.fifo = s.intake.fifo) (hs : t.intake.slot = s.intake.slot)
    (hw : s.nodeState ≠ .active → t.cues = []) (he : s.running = false → t.stack.layers = [])
    (hd : s.isDraining = true → ∀ l ∈ t.stack.layers, l.shape.loop = false) : CueSound t :=
  ⟨fun c hm => hc.cues c hm (by simp), hc.cueCount, hc.cueKeys, hc.layers, hc.layerCount, hc.layerKeys, hc.stacked, hc.orders,
    hc.counter, hc.oneHome, by rw [hn]; exact hw, by rw [State.running_congr hn]; exact he,
    by rw [State.isDraining_congr hn]; exact hd, by rw [hf]; exact h.fifo, by rw [hs]; exact h.slot⟩

theorem CueSound.of_frame {s t : State} (h : CueSound s) (hc : t.cues = s.cues) (hs : t.stack = s.stack)
    (hg : t.config = s.config) (hn : t.nodeState = s.nodeState) (hf : t.intake.fifo = s.intake.fifo)
    (hsl : t.intake.slot = s.intake.slot) : CueSound t :=
  h.of_core (h.core.of_frame hc hs hg) hn hf hsl (by rw [hc]; exact h.waiting) (by rw [hs]; exact h.empty)
    (by rw [hs]; exact h.single)

/-- In ACTIVE the list and the stack may change as `CueCore` allows. -/
theorem CueSound.of_active {s t : State} (h : CueSound s) (hc : CueCore none t) (ha : s.nodeState = .active)
    (hn : t.nodeState = s.nodeState) (hf : t.intake.fifo = s.intake.fifo) (hs : t.intake.slot = s.intake.slot) : CueSound t :=
  h.of_core hc hn hf hs (fun h0 => absurd ha h0) (fun h0 => absurd h0 (by simp [State.running, ha]))
    (fun h0 => absurd h0 (by simp [State.isDraining, ha]))

theorem CueSound.bare {t : State} (hc : t.cues = []) (hs : t.stack.layers = []) (hf : ∀ e ∈ t.intake.fifo, e.Sound)
    (hsl : ∀ h, t.intake.slot = some h → h.entry.Sound) : CueSound t := by
  refine ⟨?_, ?_, ?_, ?_, ?_, ?_, ?_, ?_, ?_, ?_, ?_, ?_, ?_, hf, hsl⟩ <;> simp [hc, hs]

theorem CueSound.blank {t : State} (hc : t.cues = []) (hs : t.stack.layers = []) (hf : t.intake.fifo = [])
    (hsl : t.intake.slot = none) : CueSound t := CueSound.bare hc hs (by simp [hf]) (by simp [hsl])

theorem CueSound.powerOn (r : Reader) (q : List Instr) : CueSound (State.powerOn r q) := CueSound.blank rfl rfl rfl rfl

theorem CueSound.enterActive (s : State) (v : Millivolts) : CueSound (s.enterActive v) :=
  CueSound.blank (by simp [State.enterActive, State.activated]) (by simp [State.enterActive, State.activated])
    (by simp [State.enterActive, State.activated, Intake.empty]) (by simp [State.enterActive, State.activated, Intake.empty])

theorem CueSound.take {s : State} (h : CueSound s) (now : Clock) : CueSound { s with intake := s.intake.take now } := by
  obtain ⟨h1, h2, h3, h4, h5, h6, h7, h8, h9, h10, h11, h12, h13, h14, h15⟩ := h
  have : (∀ e ∈ (s.intake.take now).fifo, e.Sound) ∧ ∀ x, (s.intake.take now).slot = some x → x.entry.Sound := by
    unfold Intake.take; split
    · rename_i e rest _ he
      rw [he] at h14
      refine ⟨fun x hx => h14 x (List.mem_cons_of_mem _ hx), fun x hx => ?_⟩
      cases hx; exact h14 e List.mem_cons_self
    · exact ⟨h14, h15⟩
  exact ⟨h1, h2, h3, h4, h5, h6, h7, h8, h9, h10, h11, h12, h13, this.1, this.2⟩

theorem CueSound.deliver {s : State} (h : CueSound s) {e : IntakeEntry} (he : e.Sound) : CueSound (s.deliver e) := by
  unfold State.deliver; split
  · obtain ⟨h1, h2, h3, h4, h5, h6, h7, h8, h9, h10, h11, h12, h13, h14, h15⟩ := h
    have h' : CueSound { s with intake := { s.intake with fifo := s.intake.fifo ++ [e] } } := by
      refine ⟨h1, h2, h3, h4, h5, h6, h7, h8, h9, h10, h11, h12, h13, fun x hx => ?_, h15⟩
      rcases List.mem_append.1 hx with hx | hx
      · exact h14 x hx
      · rw [List.mem_singleton.1 hx]; exact he
    exact h'.take s.showClock
  · exact h.of_frame (by simp) (by simp) (by simp) (by simp) (by simp) (by simp)

/-- The completion of a handling whose effect keeps `CueSound` and leaves the intake alone (R50). -/
theorem CueSound.complete {s : State} (h : CueSound s) {f : State → State}
    (hf : CueSound { s with intake := { s.intake with slot := none } } →
      CueSound (f { s with intake := { s.intake with slot := none } })) : CueSound (s.complete f) := by
  refine (hf ?_).take _
  obtain ⟨h1, h2, h3, h4, h5, h6, h7, h8, h9, h10, h11, h12, h13, h14, h15⟩ := h
  exact ⟨h1, h2, h3, h4, h5, h6, h7, h8, h9, h10, h11, h12, h13, h14, fun _ h0 => nomatch h0⟩

theorem IntakeEntry.call_sound {s : State} (h : CueSound s) {o : ZoneNo} {tag d : Byte} {route : BitVec 3} {sh : Shape}
    (he : s.handled = some ⟨o, .call tag route sh d⟩) : CueKey.wf ⟨o, tag⟩ = true ∧ sh.period ≠ 0 := by
  unfold State.handled at he
  obtain ⟨x, hx, hxe⟩ := Option.map_eq_some_iff.1 he
  have := h.slot x hx
  rw [hxe] at this; exact this

/-! ## The drain -/

theorem CueSound.beginDarkPhase {s : State} (h : CueSound s) (hd : s.isDraining = true) : CueSound s.beginDarkPhase := by
  have hc : s.cues = [] := h.waiting fun h0 => by simp [State.isDraining, h0] at hd
  by_cases ht : s.config.darkFade.toNat = 0
  · have hl : s.beginDarkPhase.stack.layers = [] := by simp [State.beginDarkPhase, darkFades, ht]
    exact CueSound.bare (by simp [State.beginDarkPhase, hc]) hl (by simpa [State.beginDarkPhase] using h.fifo)
      (by simpa [State.beginDarkPhase] using h.slot)
  · have hl : s.beginDarkPhase.stack.layers =
        s.stack.layers.map fun l => l.beginFade s.config.darkFade.toNat s.showClock := by
      simp [State.beginDarkPhase, darkFades, ht]
    have hcore : CueCore none s.beginDarkPhase := by
      refine h.core.filterMap (fun l => some (l.beginFade s.config.darkFade.toNat s.showClock)) ?_ (by rw [hl]; simp)
        (by simp [State.beginDarkPhase]) (by simp [State.beginDarkPhase]) (by simp [State.beginDarkPhase])
      intro a b ha hb; cases hb
      exact ⟨⟨rfl, rfl, rfl⟩, Layer.beginFade_sound (h.layers a ha) (Nat.pos_of_ne_zero ht) _⟩
    refine ⟨fun c hm => hcore.cues c hm (by simp), hcore.cueCount, hcore.cueKeys, hcore.layers, hcore.layerCount,
      hcore.layerKeys, hcore.stacked, hcore.orders, hcore.counter, hcore.oneHome, fun _ => by simp [State.beginDarkPhase, hc],
      fun h0 => ?_, fun _ l hm => ?_, by simpa [State.beginDarkPhase] using h.fifo, by simpa [State.beginDarkPhase] using h.slot⟩
    · rw [State.beginDarkPhase_running] at h0; cases h0
    · rw [hl] at hm; obtain ⟨a, ha, rfl⟩ := List.mem_map.1 hm; exact h.single hd a ha

theorem CueSound.darkCheck {s : State} (h : CueSound s) (hd : s.isDraining = true) : CueSound s.darkCheck := by
  unfold State.darkCheck; split
  · obtain ⟨h1, h2, h3, h4, h5, h6, h7, h8, h9, h10, h11, h12, h13, h14, h15⟩ := h
    exact ⟨h1, h2, h3, h4, h5, h6, h7, h8, h9, h10, fun _ => h11 fun h0 => by simp [State.isDraining, h0] at hd,
      fun h0 => (nomatch h0), fun _ => h13 hd, h14, h15⟩
  · exact h

theorem CueSound.drainCheck {s : State} (h : CueSound s) : CueSound s.drainCheck := by
  unfold State.drainCheck; split <;> rename_i hn
  · have hd : s.isDraining = true := by simp [State.isDraining, hn]
    split
    · exact (h.beginDarkPhase hd).darkCheck rfl
    · exact h
  · exact h.darkCheck (by simp [State.isDraining, hn])
  all_goals exact h

theorem CueSound.cancel {s : State} (h : CueSound s) (o : ZoneNo) (tag : Byte) (m : CancelMode) (t : Byte) :
    CueSound (s.cancel o tag m t) := by
  have hx : ∀ a b, a ∈ s.stack.layers →
      (if cancelMatches o tag a.key then a.cancel m t.toNat s.showClock else some a) = some b →
      SamePlace a b ∧ b.Sound ∧ b.shape = a.shape := by
    intro a b ha hb; split at hb
    · unfold Layer.cancel at hb; split at hb
      · cases hb
      · split at hb
        · cases hb
        · rename_i ht; cases hb
          obtain ⟨g1, g2, g3, g4, g5, g6⟩ := Layer.beginFade_sound (h.layers a ha) (Nat.pos_of_ne_zero ht) s.showClock
          exact ⟨⟨rfl, rfl, rfl⟩, ⟨g1, g2, g3, g4, g5, g6⟩, rfl⟩
    · cases hb; exact ⟨.refl a, h.layers a ha, rfl⟩
  have hcore : CueCore none (s.cancel o tag m t) := by
    refine h.core.filterMap _ (fun a b ha hb => ⟨(hx a b ha hb).1, (hx a b ha hb).2.1⟩) rfl le_rfl ?_ rfl
    exact List.filter_sublist
  refine h.of_core hcore rfl rfl rfl (fun h0 => ?_) (fun h0 => ?_) (fun h0 l hl => ?_)
  · simp [State.cancel, h.waiting h0]
  · simp [State.cancel, h.empty h0]
  · obtain ⟨a, ha, hab⟩ := List.mem_filterMap.1 hl
    rw [(hx a l ha hab).2.2]; exact h.single h0 a ha

theorem CueSound.sleep {s : State} (h : CueSound s) (d : Byte) : CueSound (s.sleep d) := by
  unfold State.sleep; split
  · refine CueSound.drainCheck ?_
    have hcore : CueCore none (s.beginDrain d) := by
      refine h.core.filterMap (fun l => some l.singleRun) ?_ (by simp [State.beginDrain]) le_rfl (List.nil_sublist _) rfl
      intro a b ha hb; cases hb; exact Layer.singleRun_sound (h.layers a ha)
    refine ⟨fun c hm => hcore.cues c hm (by simp), hcore.cueCount, hcore.cueKeys, hcore.layers, hcore.layerCount,
      hcore.layerKeys, hcore.stacked, hcore.orders, hcore.counter, hcore.oneHome, fun _ => rfl,
      fun h0 => (nomatch h0), fun _ l hm => ?_, h.fifo, h.slot⟩
    obtain ⟨a, _, rfl⟩ := List.mem_map.1 hm; rfl
  all_goals exact h

theorem CueSound.wake {s : State} (h : CueSound s) : CueSound s.wake := by
  unfold State.wake; split
  · obtain ⟨h1, h2, h3, h4, h5, h6, h7, h8, h9, h10, h11, h12, h13, h14, h15⟩ := h
    exact ⟨h1, h2, h3, h4, h5, h6, h7, h8, h9, h10, fun h0 => absurd rfl h0,
      fun h0 => (nomatch h0), fun h0 => (nomatch h0), h14, h15⟩
  all_goals exact h

/-- The layer of a key changes by a rule that keeps it sound, in its place and with its shape. -/
theorem CueSound.replaceLayer {s : State} (h : CueSound s) (k : CueKey) (r : Option Layer)
    (hr : ∀ a ∈ s.stack.layers, a.key = k → ∀ b, r = some b → SamePlace a b ∧ b.Sound ∧ b.shape = a.shape) :
    CueSound (s.setLayers (Machine.replaceLayer k r s.stack.layers)) := by
  refine h.of_core (h.core.replace k r fun a ha hk b hb => ⟨(hr a ha hk b hb).1, (hr a ha hk b hb).2.1⟩) rfl rfl rfl
    h.waiting (fun h0 => ?_) (fun h0 l hl => ?_)
  · show Machine.replaceLayer k r s.stack.layers = []
    rw [h.empty h0]; unfold Machine.replaceLayer updateLayer removeLayer; split <;> rfl
  · have hm : ∃ a ∈ s.stack.layers, l.shape = a.shape := by
      change l ∈ Machine.replaceLayer k r s.stack.layers at hl
      unfold Machine.replaceLayer at hl; split at hl
      · obtain ⟨a, ha, rfl⟩ := List.mem_map.1 hl
        split
        · rename_i hk; exact ⟨a, ha, (hr a ha hk _ rfl).2.2⟩
        · exact ⟨a, ha, rfl⟩
      · exact ⟨l, (List.mem_filter.1 hl).1, rfl⟩
    obtain ⟨a, ha, hab⟩ := hm
    rw [hab]; exact h.single h0 a ha

theorem updateLayer_shape {k : CueKey} {f : Layer → Layer} (hf : ∀ l, (f l).shape = l.shape) {ls : List Layer}
    (h : ∀ l ∈ ls, l.shape.loop = false) : ∀ l ∈ updateLayer k f ls, l.shape.loop = false := by
  intro l hl; obtain ⟨a, ha, rfl⟩ := List.mem_map.1 hl
  split
  · rw [hf]; exact h a ha
  · exact h a ha

theorem CueSound.checkDue {s : State} (h : CueSound s) (k : CueKey) : CueSound (s.checkDue k) := by
  refine h.of_core (h.core.checkDue k) (by simp) (by simp) (by simp) ?_ ?_ ?_
  · simpa using h.waiting
  · intro h0
    have := h.empty h0
    unfold State.checkDue; rw [this]; simpa [findLayer] using this
  · intro h0
    unfold State.checkDue; (repeat' split)
    · simp only [State.giveHandoff, State.requestHandoff_frame]
      exact updateLayer_shape (f := fun x => { x with spent := true }) (fun _ => rfl) (h.single h0)
    all_goals exact h.single h0

theorem CueSound.showTick {s : State} (h : CueSound s) : CueSound (showTick s) := by
  unfold Machine.showTick; split
  · have hcore : CueCore none { s.setLayers (s.stack.layers.map Layer.tick) with showClock := later s.showClock 1 } := by
      refine h.core.filterMap (fun l => some l.tick) ?_ (by simp [State.setLayers]) le_rfl (List.Sublist.refl _) rfl
      intro a b ha hb; cases hb; exact ⟨(Layer.tick_sound (h.layers a ha)).1, (Layer.tick_sound (h.layers a ha)).2.1⟩
    refine h.of_core hcore rfl rfl rfl h.waiting (fun h0 => ?_) (fun h0 l hl => ?_)
    · simp [State.setLayers, h.empty h0]
    · obtain ⟨a, ha, rfl⟩ := List.mem_map.1 hl
      rw [(Layer.tick_sound (h.layers a ha)).2.2]; exact h.single h0 a ha
  · exact h

end Sys2Proof.Machine
end

