-- ==== Sys2Proof/Laws/Drain.lean ====
section
/-! SUPPORT. The base and the drain: their operations keep `DrainSound`. -/

namespace Sys2Proof.Machine

/-! ## The transition -/

/-- The part of `DrainSound` that speaks of the base: a transition stands at the look of its last step. -/
def Base.Sound (b : Base) : Prop :=
  ∀ tr, b.transition = some tr →
    tr.taken < tr.steps ∧ b.current = glideLook tr.start tr.target tr.taken tr.steps

theorem glideLook_zero (a b : Look) (t : Nat) : glideLook a b 0 t = a := by
  simp [glideLook, glideColour, glide_zero]

theorem Base.moveTo_sound {b : Base} (target : Look) (t : Nat) (now : Clock) : (b.moveTo target t now).Sound := by
  unfold Base.moveTo; split
  · intro tr h; cases h
  · rename_i ht; intro tr h; cases h
    exact ⟨Nat.pos_of_ne_zero ht, (glideLook_zero _ _ _).symm⟩

theorem Base.step_sound {b : Base} (tr : Transition) : (b.step tr).Sound := by
  unfold Base.step; dsimp only; intro x hx; dsimp only at hx
  split at hx
  · rename_i hj; cases hx; exact ⟨hj, rfl⟩
  · cases hx

theorem DrainSound.base {s : State} (h : DrainSound s) : s.base.Sound := fun tr ht => (h.transition tr ht).2

/-! ## Frames -/

theorem DrainSound.of_frame {s t : State} (h : DrainSound s) (hd : t.drainDeadline = s.drainDeadline)
    (hn : t.nodeState = s.nodeState) (hc : t.cues = s.cues) (hs : t.stack = s.stack) (hb : t.base = s.base) :
    DrainSound t := by
  obtain ⟨h1, h2, h3, h4, h5, h6⟩ := h
  exact ⟨by rw [hd, hn]; exact h1, by rw [State.isDraining_congr hn, hc]; exact h2, by rw [hn, hs]; exact h3,
    by rw [hn, hs, hb]; exact h4, by rw [hn, hs, hb]; exact h5, by rw [State.running_congr hn, hb]; exact h6⟩

/-- Outside DRAINING. -/
theorem DrainSound.of_outside {t : State} (hd : t.drainDeadline = none) (hn : t.isDraining = false) (hb : t.base.Sound)
    (ht : t.running = false → t.base.transition = none) : DrainSound t := by
  have hnn : ∀ p, t.nodeState ≠ .draining p := fun p h0 => by simp [State.isDraining, h0] at hn
  refine ⟨?_, fun h0 => absurd (hn.symm.trans h0) (by decide), fun h0 => absurd h0 (hnn _), fun h0 => absurd h0 (hnn _),
    fun h0 => absurd h0 (hnn _), fun tr h0 => ⟨?_, hb tr h0⟩⟩
  · rw [hd]; exact ⟨fun h0 => (nomatch h0), fun h0 => absurd h0 (hnn _)⟩
  · cases hr : t.running
    · rw [ht hr] at h0; cases h0
    · rfl

theorem DrainSound.deadline_none {s : State} (h : DrainSound s) (hn : s.nodeState ≠ .draining .proper) :
    s.drainDeadline = none := by
  cases hd : s.drainDeadline with
  | none => rfl
  | some d => exact absurd (h.deadline.1 (by rw [hd]; rfl)) hn

theorem DrainSound.stopped {s : State} (h : DrainSound s) (hr : s.running = false) : s.base.transition = none := by
  cases ht : s.base.transition with
  | none => rfl
  | some tr => have := (h.transition tr ht).1; rw [hr] at this; cases this

/-- In ACTIVE the list, the stack and the base may change. -/
theorem DrainSound.of_active {s t : State} (h : DrainSound s) (ha : s.nodeState = .active) (hn : t.nodeState = s.nodeState)
    (hd : t.drainDeadline = s.drainDeadline) (hb : t.base.Sound) : DrainSound t :=
  DrainSound.of_outside (by rw [hd, h.deadline_none (by simp [ha])]) (by simp [State.isDraining, hn, ha]) hb
    (fun h0 => by simp [State.running, hn, ha] at h0)

/-! ## The drain -/

theorem darkFades_fading (t : Nat) (now : Clock) (ls : List Layer) : ∀ l ∈ darkFades t now ls, l.state = .fading := by
  unfold darkFades; split
  · simp
  · intro l hl; obtain ⟨a, _, rfl⟩ := List.mem_map.1 hl; rfl

/-- The check of a node in its dark phase. -/
theorem DrainSound.darkCheck {s : State} (hn : s.nodeState = .draining .dark) (hd : s.drainDeadline = none)
    (hc : s.cues = []) (hl : ∀ l ∈ s.stack.layers, l.state = .fading) (hb : s.base.Sound) : DrainSound s.darkCheck := by
  have hr : s.running = true := by simp [State.running, hn]
  unfold State.darkCheck; split
  · rename_i hg; simp only [Bool.and_eq_true, List.isEmpty_iff] at hg
    refine ⟨?_, fun _ => hc, fun h0 => (nomatch h0), fun h0 => (nomatch h0), fun _ => hg, fun tr h0 => ⟨rfl, hb tr h0⟩⟩
    show s.drainDeadline.isSome = true ↔ _
    rw [hd]; exact ⟨fun h0 => (nomatch h0), fun h0 => (nomatch h0)⟩
  · rename_i hg
    refine ⟨?_, fun _ => hc, fun h0 => ?_, fun _ => ⟨hl, by simpa using hg⟩, fun h0 => ?_, fun tr h0 => ⟨hr, hb tr h0⟩⟩
    · rw [hd, hn]; exact ⟨fun h0 => (nomatch h0), fun h0 => (nomatch h0)⟩
    · rw [hn] at h0; cases h0
    · rw [hn] at h0; cases h0

theorem DrainSound.endDrain {s : State} (hc : s.cues = []) : DrainSound s.beginDarkPhase.darkCheck := by
  refine DrainSound.darkCheck rfl rfl hc ?_ ?_
  · exact darkFades_fading _ _ _
  · exact Base.moveTo_sound _ _ _

/-- What an event in DRAINING that is followed by the drain check must leave. -/
theorem DrainSound.drainCheck {s t : State} (h : DrainSound s) (hn : t.nodeState = s.nodeState)
    (hd : t.drainDeadline = s.drainDeadline) (hc : s.isDraining = true → t.cues = []) (hb : t.base.Sound)
    (hr : s.running = false → t.base.transition = none)
    (hl : s.nodeState = .draining .dark → ∀ l ∈ t.stack.layers, l.state = .fading)
    (ho : s.nodeState = .draining .ordered → t.base.dark = true ∧ t.stack.layers = []) : DrainSound t.drainCheck := by
  unfold State.drainCheck; split <;> rename_i ht
  · have hs : s.nodeState = .draining .proper := hn.symm.trans ht
    have hc' := hc (by simp [State.isDraining, hs])
    split
    · exact DrainSound.endDrain hc'
    · rename_i hg
      refine ⟨?_, fun _ => hc', fun _ => by simpa using hg, fun h0 => ?_, fun h0 => ?_, fun tr h0 => ⟨by simp [State.running, ht], hb tr h0⟩⟩
      · rw [hd, hn]; exact h.deadline
      · rw [ht] at h0; cases h0
      · rw [ht] at h0; cases h0
  · have hs : s.nodeState = .draining .dark := hn.symm.trans ht
    exact DrainSound.darkCheck ht (by rw [hd]; exact h.deadline_none (by simp [hs])) (hc (by simp [State.isDraining, hs]))
      (hl hs) hb
  · have hs : s.nodeState = .draining .ordered := hn.symm.trans ht
    have hc' := hc (by simp [State.isDraining, hs])
    refine ⟨?_, fun _ => hc', fun h0 => ?_, fun h0 => ?_, fun _ => ho hs, fun tr h0 => ⟨by simp [State.running, ht], hb tr h0⟩⟩
    · rw [hd, hn]; exact h.deadline
    · rw [ht] at h0; cases h0
    · rw [ht] at h0; cases h0
  all_goals
    have hs := hn.symm.trans ht
    exact DrainSound.of_outside (by rw [hd]; exact h.deadline_none (by simp [hs])) (by simp [State.isDraining, ht]) hb
      (fun h0 => hr (by rw [State.running_congr hn] at h0; exact h0))

theorem DrainSound.complete {s : State} (h : DrainSound s) {f : State → State}
    (hf : DrainSound { s with intake := { s.intake with slot := none } } →
      DrainSound (f { s with intake := { s.intake with slot := none } })) : DrainSound (s.complete f) :=
  (hf (h.of_frame rfl rfl rfl rfl rfl)).of_frame rfl rfl rfl rfl rfl

theorem DrainSound.setTheme {s : State} (h : DrainSound s) (hr : s.running = true) (look : Look) (t : Nat) :
    DrainSound (s.setTheme look t) := by
  by_cases hp : s.pastDrainEnd = true
  · have he : s.setTheme look t = { s with base := { s.base with theme := look } } := by simp [State.setTheme, hp]
    obtain ⟨h1, h2, h3, h4, h5, h6⟩ := h
    rw [he]; exact ⟨h1, h2, h3, h4, h5, h6⟩
  · have he : s.setTheme look t = { s with base := Base.moveTo { s.base with theme := look } look t s.showClock } := by
      simp [State.setTheme, hp]
    rw [he]
    obtain ⟨h1, h2, h3, h4, h5, h6⟩ := h
    refine ⟨h1, h2, h3, fun h0 => ?_, fun h0 => ?_, fun tr h0 => ⟨hr, Base.moveTo_sound _ _ _ tr h0⟩⟩
    · exact absurd (by simp [State.pastDrainEnd, show s.nodeState = _ from h0]) hp
    · exact absurd (by simp [State.pastDrainEnd, show s.nodeState = _ from h0]) hp

theorem DrainSound.sleep {s : State} (h : DrainSound s) (d : Byte) : DrainSound (s.sleep d) := by
  unfold State.sleep; split
  · rename_i ha
    have hb : (s.beginDrain d).base.Sound := h.base
    have he : (s.beginDrain d).drainCheck =
        if (s.beginDrain d).stack.settled then (s.beginDrain d).beginDarkPhase.darkCheck else s.beginDrain d := rfl
    rw [he]
    by_cases hg : (s.beginDrain d).stack.settled = true
    · rw [if_pos hg]; exact DrainSound.endDrain rfl
    · rw [if_neg hg]
      exact ⟨⟨fun _ => rfl, fun _ => rfl⟩, fun _ => rfl, fun _ => by simpa using hg, fun h0 => (nomatch h0),
        fun h0 => (nomatch h0), fun tr h0 => ⟨rfl, hb tr h0⟩⟩
  all_goals exact h

theorem DrainSound.wake {s : State} (h : DrainSound s) : DrainSound s.wake := by
  unfold State.wake; split
  · exact DrainSound.of_outside rfl rfl (Base.moveTo_sound _ _ _) (fun h0 => (nomatch h0))
  all_goals exact h

/-- The list stays empty and, in DRAINING, the states of the layers stay as they are. -/
theorem DrainSound.sameStates {s t : State} (h : DrainSound s) (hd : t.drainDeadline = s.drainDeadline)
    (hn : t.nodeState = s.nodeState) (hc : s.cues = [] → t.cues = [])
    (hs : s.isDraining = true → t.stack.layers.map Layer.state = s.stack.layers.map Layer.state) (hb : t.base = s.base) :
    DrainSound t := by
  by_cases hdr : s.isDraining = true
  · have hs := hs hdr
    obtain ⟨h1, h2, h3, h4, h5, h6⟩ := h
    have hset : t.stack.settled = s.stack.settled := by
      have e : ∀ st : LayerStack, st.settled = (st.layers.map Layer.state).all (fun x => decide (x = .held)) := by
        intro st; simp [LayerStack.settled, List.all_map, Function.comp_def]
      rw [e, e, hs]
    have hlen : t.stack.layers.length = s.stack.layers.length := by simpa using congrArg List.length hs
    have hnil : t.stack.layers.isEmpty = s.stack.layers.isEmpty := by
      rw [Bool.eq_iff_iff, List.isEmpty_iff_length_eq_zero, List.isEmpty_iff_length_eq_zero, hlen]
    refine ⟨by rw [hd, hn]; exact h1, fun _ => hc (h2 hdr), by rw [hn, hset]; exact h3, ?_, ?_,
      by rw [State.running_congr hn, hb]; exact h6⟩
    · rw [hn, hb, hnil]; intro h0; refine ⟨?_, (h4 h0).2⟩
      intro l hl
      have : l.state ∈ s.stack.layers.map Layer.state := by rw [← hs]; exact List.mem_map_of_mem hl
      obtain ⟨a, ha, hx⟩ := List.mem_map.1 this
      rw [← hx]; exact (h4 h0).1 a ha
    · rw [hn, hb]; intro h0; refine ⟨(h5 h0).1, ?_⟩
      have := (h5 h0).2
      rw [← List.isEmpty_iff, hnil, List.isEmpty_iff]; exact this
  · have hdr : s.isDraining = false := by simpa using hdr
    exact DrainSound.of_outside
      (by rw [hd]; exact h.deadline_none (fun h0 => by simp [State.isDraining, h0] at hdr))
      (by rw [State.isDraining_congr hn]; exact hdr) (by rw [hb]; exact h.base)
      (fun h0 => by rw [hb]; exact h.stopped (by rw [State.running_congr hn] at h0; exact h0))

theorem State.checkDue_states (s : State) (k : CueKey) :
    (s.checkDue k).stack.layers.map Layer.state = s.stack.layers.map Layer.state := by
  unfold State.checkDue; (repeat' split)
  · simp only [State.giveHandoff, State.requestHandoff_frame, State.setLayers, updateLayer, List.map_map]
    refine List.map_congr_left fun x _ => ?_
    simp only [Function.comp_apply]; split <;> rfl
  all_goals rfl

theorem replaceLayer_states {k : CueKey} {r : Option Layer} {st : LayerState} (hr : ∀ l, r = some l → l.state = st)
    {ls : List Layer} (h : ∀ l ∈ ls, l.state = st) : ∀ l ∈ replaceLayer k r ls, l.state = st := by
  unfold replaceLayer; split
  · rename_i m; intro l hl; obtain ⟨a, ha, rfl⟩ := List.mem_map.1 hl
    split
    · exact hr m rfl
    · exact h a ha
  · intro l hl; exact h l (List.mem_filter.1 hl).1

end Sys2Proof.Machine
end

