-- ==== Sys2Proof/Laws/Level.lean ====
section
/-! SUPPORT. The level unit's and the supply monitor's operations keep `LevelSound` and `SupplySound`. -/

namespace Sys2Proof.Machine

/-! ## Levels -/

theorem lower_le_left (a b : Byte) : (lower a b).toNat ≤ a.toNat := by unfold lower; split <;> omega

theorem lower_le_right (a b : Byte) : (lower a b).toNat ≤ b.toNat := by unfold lower; split <;> omega

theorem foldl_lower_le (cs : List Byte) (c : Byte) : (cs.foldl lower c).toNat ≤ c.toNat := by
  induction cs generalizing c with
  | nil => exact Nat.le_refl _
  | cons x xs ih => exact (ih _).trans (lower_le_left _ _)

/-- K* is at most the own cap (R77). -/
theorem target_le_ownCap (s : State) : s.target.toNat ≤ s.supply.ownCap.toNat := foldl_lower_le _ _

theorem target_congr {s t : State} (hu : t.supply.ownCap = s.supply.ownCap) (hc : t.config.floor = s.config.floor)
    (hr : t.roster.entries.toList.filterMap (flooredCap s.config.floor) =
      s.roster.entries.toList.filterMap (flooredCap s.config.floor)) : t.target = s.target := by
  unfold State.target capTarget; rw [hu, hc, hr]

@[simp] theorem State.formTarget_target (s : State) : s.formTarget.target = s.target := rfl

/-- The part of `LevelSound` that does not speak of K*. -/
structure LevelCore (s : State) : Prop where
  applied : s.level.a = lower s.level.d s.level.k
  stopped : s.running = false → s.level.slewDeadline = none ∧ s.level.ramp = none
  ramp : ∀ r, s.level.ramp = some r → r.taken < r.steps ∧ s.level.d = glide r.start r.target r.taken r.steps

theorem LevelSound.core {s : State} (h : LevelSound s) : LevelCore s := ⟨h.applied, h.stopped, h.ramp⟩

theorem LevelCore.sound {s : State} (h : LevelCore s) (hk : s.level.k.toNat ≤ s.target.toNat)
    (hs : s.running = true → (s.level.slewDeadline.isSome = true ↔ s.level.k.toNat < s.target.toNat)) :
    LevelSound s :=
  ⟨h.applied, hk, by rw [h.applied]; exact (lower_le_right _ _).trans (hk.trans (target_le_ownCap s)), hs, h.stopped,
    h.ramp⟩

/-- Forming K* afresh makes the level unit sound (R77 to R79, R82). -/
theorem LevelCore.formTarget {s : State} (h : LevelCore s) (hr : s.running = true) : LevelSound s.formTarget := by
  have hrt : s.formTarget.running = true := hr
  refine LevelCore.sound ⟨?_, ?_, ?_⟩ ?_ ?_
  · simp only [State.formTarget_level, Level.meet]; split
    · rfl
    · exact h.applied
  · intro h0; rw [hrt] at h0; cases h0
  · intro r hrr
    simp only [State.formTarget_level, Level.meet] at hrr ⊢
    split at hrr <;> rename_i hc <;> simp only [hc, if_true, if_false] <;> exact h.ramp r hrr
  · simp only [State.formTarget_level, State.formTarget_target, Level.meet]; split
    · exact Nat.le_refl _
    · dsimp only; omega
  · intro _
    simp only [State.formTarget_level, State.formTarget_target, Level.meet]; split
    · simp [Level.formA]
    · simp; omega

theorem LevelSound.of_eq {s t : State} (h : LevelSound s) (hl : t.level = s.level)
    (hu : t.supply.ownCap = s.supply.ownCap) (ht : t.target = s.target) (hr : t.running = s.running) :
    LevelSound t := by
  obtain ⟨h1, h2, h3, h4, h5, h6⟩ := h
  constructor <;> simp_all

theorem LevelSound.of_frame {s t : State} (h : LevelSound s) (hl : t.level = s.level) (hu : t.supply = s.supply)
    (hc : t.config = s.config) (he : t.roster.entries = s.roster.entries) (hr : t.running = s.running) :
    LevelSound t :=
  h.of_eq hl (by rw [hu]) (target_congr (by rw [hu]) (by rw [hc]) (by rw [he])) hr

theorem roster_empty_target (c : NodeConfig) (own : Byte) :
    capTarget own c.floor (Roster.powerOn.entries.toList) = own := rfl

/-- The node's own blocks at a power-on start: K* is the own cap. -/
theorem LevelSound.powerOn (r : Reader) (q : List Instr) : LevelSound (State.powerOn r q) := by
  have ht : (State.powerOn r q).target = 255 := roster_empty_target NodeConfig.blank 255
  refine LevelCore.sound ⟨rfl, fun _ => ⟨rfl, rfl⟩, fun r h0 => by cases h0⟩ ?_ (fun h0 => by cases h0)
  rw [ht]; exact Nat.le_refl _

/-! ## The supply monitor -/

theorem SupplySound.of_frame {s t : State} (h : SupplySound s) (hu : t.supply = s.supply)
    (hc : t.config.sagCap = s.config.sagCap) (hr : t.running = s.running) : SupplySound t := by
  obtain ⟨h1, h2, h3, h4, h5⟩ := h
  constructor <;> simp_all

theorem SupplySound.powerOn (r : Reader) (q : List Instr) : SupplySound (State.powerOn r q) := by
  constructor <;> simp [State.powerOn, Supply.powerOn, State.running, SupplyState.cap, SupplyState.onBand]

/-- A state just entered is sound when the band leaves it as it is. -/
theorem moveSupply_supply (s : State) (st : SupplyState) : (s.moveSupply st).supply =
    if st = s.supply.state then s.supply else s.supply.enter st s.config.sagCap s.showClock := by
  unfold State.moveSupply; split
  · rfl
  · simp [State.handOnCap]; split <;> simp

theorem SupplySound.moveSupply {s : State} (h : SupplySound s) (st : SupplyState) (hr : s.running = true)
    (hb : st.onBand s.supply.band = st) : SupplySound (s.moveSupply st) := by
  have hrt : (s.moveSupply st).running = true := by rw [← hr]; exact State.running_congr (by simp)
  have hs := moveSupply_supply s st
  split at hs
  · exact h.of_frame hs (by simp) (hrt.trans hr.symm)
  · constructor
    · rw [hs]; simp [Supply.enter]
    · intro _; rw [hs]; simp only [Supply.enter]; split <;> simp_all
    · intro _; rw [hs]; simp only [Supply.enter]; split <;> simp_all
    · intro h0; rw [hrt] at h0; cases h0
    · rw [hs]; exact hb

/-- A move of the supply state keeps the level unit sound (R92). -/
theorem LevelSound.moveSupply {s : State} (h : LevelSound s) (st : SupplyState) (hr : s.running = true) :
    LevelSound (s.moveSupply st) := by
  unfold State.moveSupply; split
  · exact h
  unfold State.handOnCap; dsimp only; split
  · rename_i hc
    refine h.of_eq (by simp) hc (target_congr hc (by simp) (by simp)) (State.running_congr (by simp))
  · have h1 : LevelCore ({ s with supply := s.supply.enter st s.config.sagCap s.showClock }.raiseIf
        (decide (st = SupplyState.deep)) Notice.supplyDeep) := by
      have hr2 : ({ s with supply := s.supply.enter st s.config.sagCap s.showClock }.raiseIf
        (decide (st = SupplyState.deep)) Notice.supplyDeep).running = true := by
        rw [← hr]; exact State.running_congr (by simp)
      refine ⟨by simpa using h.applied, ?_, by simpa using h.ramp⟩
      intro h0; rw [hr2] at h0; cases h0
    have h2 := h1.formTarget (by rw [← hr]; exact State.running_congr (by simp))
    exact h2.of_frame (by simp) (by simp) (by simp) (by simp) (State.running_congr (by simp))

/-- What a band leaves, it leaves again (R88). -/
theorem onBand_idem (st : SupplyState) (b : Band) : (st.onBand b).onBand b = st.onBand b := by
  cases st <;> cases b <;> rfl

theorem takeBand_sound {s : State} (hl : LevelSound s) (hu : SupplySound s) (hr : s.running = true) (b : Band) :
    LevelSound (s.takeBand b) ∧ SupplySound (s.takeBand b) := by
  have h1 : LevelSound { s with supply := { s.supply with band := b } } := hl.of_eq rfl rfl rfl rfl
  refine ⟨h1.moveSupply _ hr, ?_⟩
  unfold State.takeBand
  have hs := moveSupply_supply { s with supply := { s.supply with band := b } } (s.supply.state.onBand b)
  have hrt : (State.moveSupply { s with supply := { s.supply with band := b } } (s.supply.state.onBand b)).running
      = true := by rw [← hr]; exact State.running_congr (by simp)
  obtain ⟨g1, g2, g3, g4, g5⟩ := hu
  split at hs
  · rename_i he
    constructor
    · rw [hs]; simpa using g1
    · intro _; rw [hs]; exact g2 hr
    · intro _; rw [hs]; exact g3 hr
    · intro h0; rw [hrt] at h0; cases h0
    · rw [hs]; exact he
  · constructor
    · rw [hs]; simp [Supply.enter]
    · intro _; rw [hs]; simp only [Supply.enter]; split <;> simp_all
    · intro _; rw [hs]; simp only [Supply.enter]; split <;> simp_all
    · intro h0; rw [hrt] at h0; cases h0
    · rw [hs]; exact onBand_idem _ _

theorem activated_sound (s : State) : LevelSound s.activated ∧ SupplySound s.activated := by
  refine ⟨LevelCore.sound ⟨rfl, ?_, ?_⟩ ?_ ?_, ?_⟩
  · intro h0; cases h0
  · intro r h0; cases h0
  · have : s.activated.target = 255 := roster_empty_target s.config 255
    rw [this]; exact Nat.le_refl _
  · have : s.activated.target = 255 := roster_empty_target s.config 255
    intro _; rw [this]; simp [State.activated, Level.formA, Level.powerOn]
  · constructor <;> simp [State.activated, Supply.powerOn, State.running, SupplyState.cap, SupplyState.onBand]

theorem enterActive_sound (s : State) (v : Millivolts) : LevelSound (s.enterActive v) ∧ SupplySound (s.enterActive v) := by
  obtain ⟨h1, h2⟩ := activated_sound s
  have hr : (s.activated.request (.report .presence)).running = true := by
    rw [show true = s.activated.running from rfl]; exact State.running_congr (by simp)
  refine takeBand_sound ?_ ?_ hr _
  · exact h1.of_frame (by simp) (by simp) (by simp) (by simp) hr
  · exact h2.of_frame (by simp) (by simp) hr

/-! ## Ramps, slews and the roster -/

theorem dim_sound {s : State} (h : LevelSound s) (hr : s.running = true) (target : Byte) (t : Nat) :
    LevelSound { s with level := s.level.dim target t s.showClock } := by
  have hn : ∀ {P : Prop}, s.running = false → P := fun h0 => by rw [hr] at h0; cases h0
  unfold Level.dim; split
  · exact LevelCore.sound ⟨rfl, fun h0 => hn h0, fun r h0 => by cases h0⟩ h.capped h.slew
  · refine LevelCore.sound ⟨h.applied, fun h0 => hn h0, ?_⟩ h.capped h.slew
    intro r h0; cases h0
    exact ⟨Nat.pos_of_ne_zero (by assumption), by simp⟩

theorem rampStep_sound {s : State} (h : LevelSound s) (hr : s.running = true) (r : Ramp) :
    LevelSound { s with level := s.level.rampStep r } := by
  have hn : ∀ {P : Prop}, s.running = false → P := fun h0 => by rw [hr] at h0; cases h0
  refine LevelCore.sound ⟨rfl, fun h0 => hn h0, ?_⟩ h.capped h.slew
  intro r' h0
  simp only [Level.rampStep, Level.formA] at h0 ⊢
  split at h0
  · cases h0; exact ⟨by assumption, rfl⟩
  · cases h0

theorem slewed_toNat (k slew target : Byte) :
    (slewed k slew target).toNat = min (k.toNat + slew.toNat) target.toNat := by
  unfold slewed byteOf; rw [BitVec.toNat_ofNat]; have := target.isLt; omega

theorem slewStep_sound {s : State} (h : LevelSound s) (hr : s.running = true) (d : Clock) :
    LevelSound { s with level := s.level.slewStep s.config.slew s.target d } := by
  have hn : ∀ {P : Prop}, s.running = false → P := fun h0 => by rw [hr] at h0; cases h0
  refine LevelCore.sound ⟨rfl, fun h0 => hn h0, h.ramp⟩ ?_ ?_
  · show (slewed _ _ _).toNat ≤ s.target.toNat
    rw [slewed_toNat]; omega
  · intro _
    show (if (slewed s.level.k s.config.slew s.target).toNat < s.target.toNat then some (later d 10) else none).isSome = true
      ↔ (slewed s.level.k s.config.slew s.target).toNat < s.target.toNat
    split <;> simp_all

/-- A refresh changes no kind and no cap (R40). -/
theorem refresh_caps (s : State) (o : ZoneNo) : (s.refresh o).roster.entries.toList.filterMap (flooredCap s.config.floor) =
    s.roster.entries.toList.filterMap (flooredCap s.config.floor) := by
  unfold State.refresh; split
  · rename_i i _
    simp only [State.setPeer_entries, Vector.toList_set]
    generalize hl : s.roster.entries.toList = l
    have hi : i.val < l.length := by rw [← hl]; simp
    have he : s.roster.entries[i] = l[i.val] := by subst hl; simp
    rw [he]
    clear hl he
    generalize i.val = n at *
    induction l generalizing n with
    | nil => simp at hi
    | cons x xs ih =>
      cases n with
      | zero => cases x <;> rfl
      | succ n =>
        simp only [List.set_cons_succ, List.filterMap_cons, List.getElem_cons_succ]
        rw [ih n (by simpa using hi)]
  · rfl

end Sys2Proof.Machine
end

