-- ==== Sys2Proof/Laws/Line.lean ====
section
/-! SUPPORT. What the operations on pulses, edges and samples say, in numbers, and what stands on the S pins. -/

namespace Sys2Proof.Machine

/-! ## Pulses and edges -/

theorem lineStuck_iff (t : Nat) : lineStuck t = true ↔ 32000 < t := decide_eq_true_iff

theorem edgeInWindow_iff (t : Nat) : edgeInWindow t = true ↔ 3500 ≤ t ∧ t ≤ 4500 := decide_eq_true_iff

theorem pulseClass_bitFault_iff (w : Nat) :
    pulseClass w = .bitFault ↔ ¬((500 ≤ w ∧ w ≤ 1500) ∨ (2500 ≤ w ∧ w ≤ 3500)) := by
  unfold pulseClass
  split
  · rename_i h; simp [h]
  · rename_i h; split
    · rename_i h'; simp [h']
    · rename_i h'; simp only [true_iff, not_or]; exact ⟨h, h'⟩

theorem badPulse_iff (b : LineBit) : badPulse b = true ↔
    ¬((500 ≤ b.width ∧ b.width ≤ 1500) ∨ (2500 ≤ b.width ∧ b.width ≤ 3500)) ∧ b.width ≤ 32000 := by
  simp only [badPulse, Bool.and_eq_true, decide_eq_true_eq, Bool.not_eq_true', ← Bool.not_eq_true, lineStuck_iff,
    Nat.not_lt, pulseClass_bitFault_iff]

theorem lineIdle_iff (t : Nat) : lineIdle t = true ↔ 12000 ≤ t := decide_eq_true_iff

theorem lineIdle_sub_iff (t w : Nat) : lineIdle (t - w) = true ↔ w + 12000 ≤ t := by
  rw [lineIdle_iff]; omega

theorem followsInTime_iff (a b : LineBit) : followsInTime a b = true ↔
    a.width < b.spacing ∧ (b.spacing ≤ 6000 ∨ (6000 ≤ a.width ∧ b.spacing < a.width + 12000)) := by
  simp only [followsInTime, Bool.and_eq_true, Bool.or_eq_true, decide_eq_true_eq, Bool.not_eq_true',
    ← Bool.not_eq_true, lineIdle_sub_iff, Nat.not_le]
  rfl

theorem edgesInTime_cons (a b : LineBit) (rest : List LineBit) :
    edgesInTime (a :: b :: rest) = true ↔ followsInTime a b = true ∧ edgesInTime (b :: rest) = true := by
  simp only [edgesInTime, Bool.and_eq_true]

/-! ## The line at a moment -/

theorem lineAt_nil (beyond : Option Bool) (t : Nat) (b : LineBit) :
    (t < b.width → lineAt beyond [] t b = some false) ∧ (t = b.width → lineAt beyond [] t b = none) ∧
    (b.width < t → lineAt beyond [] t b = beyond) := by
  unfold lineAt
  refine ⟨fun h => if_pos h, fun h => ?_, fun h => ?_⟩
  · rw [if_neg (by rw [h]; exact Nat.lt_irrefl _), if_pos h]
  · rw [if_neg (Nat.not_lt.2 (Nat.le_of_lt h)), if_neg (Nat.ne_of_gt h)]

/-- The line between the falling edge of `b` and the edge of the next bit `c`, and past that edge. -/
theorem lineAt_cons (beyond : Option Bool) (t : Nat) (b c : LineBit) (cs : List LineBit) (h : b.width < c.spacing) :
    (t < b.width → lineAt beyond (c :: cs) t b = some false) ∧
    (t = b.width → lineAt beyond (c :: cs) t b = none) ∧
    (b.width < t → t < c.spacing → lineAt beyond (c :: cs) t b = some true) ∧
    (t = c.spacing → lineAt beyond (c :: cs) t b = none) ∧
    (c.spacing < t → lineAt beyond (c :: cs) t b = lineAt beyond cs (t - c.spacing) c) := by
  rw [lineAt]
  refine ⟨fun h => if_pos h, fun h => ?_, fun h h' => ?_, fun h' => ?_, fun h' => ?_⟩
  · rw [if_neg (by rw [h]; exact Nat.lt_irrefl _), if_pos h]
  · rw [if_neg (Nat.not_lt.2 (Nat.le_of_lt h)), if_neg (Nat.ne_of_gt h), if_pos h']
  · rw [if_neg (Nat.not_lt.2 (Nat.le_of_lt (h' ▸ h))), if_neg (Nat.ne_of_gt (h' ▸ h)),
      if_neg (by rw [h']; exact Nat.lt_irrefl _), if_pos h']
  · have h'' := Nat.lt_trans h h'
    rw [if_neg (Nat.not_lt.2 (Nat.le_of_lt h'')), if_neg (Nat.ne_of_gt h''),
      if_neg (Nat.not_lt.2 (Nat.le_of_lt h')), if_neg (Nat.ne_of_gt h')]

/-! ## The idle line -/

theorem gapMayBeIdle_iff (g : Gap) : gapMayBeIdle g = true ↔ g.width + 12000 ≤ g.since := lineIdle_sub_iff _ _

theorem idleCount_bitEnd_iff (g : Gap) : lineIdle (idleCount g .bitEnd) = true ↔ max 4000 g.width + 12000 ≤ g.since :=
  lineIdle_sub_iff _ _

theorem idleCount_rise_iff (g : Gap) : lineIdle (idleCount g .rise) = true ↔ g.width + 12000 ≤ g.since :=
  lineIdle_sub_iff _ _

theorem gapMayBeNoise_iff (g : Gap) :
    gapMayBeNoise g = true ↔ g.width ≤ g.since ∧ g.since < max 4000 g.width + 12000 := by
  simp only [gapMayBeNoise, Bool.and_eq_true, decide_eq_true_eq, Bool.not_eq_true', ← Bool.not_eq_true,
    idleCount_bitEnd_iff, Nat.not_le]

/-- When the line is idle, by what the bus port is doing (R4). -/
theorem BusPort.idleAt_iff (b : BusPort) (g : Gap) : b.idleAt g = true ↔
    match b.line with
    | .outside .bitEnd _ => max 4000 g.width + 12000 ≤ g.since
    | .outside .rise _ => g.width + 12000 ≤ g.since
    | .receiving | .stopped => 6000 ≤ g.width ∧ g.width + 12000 ≤ g.since
    | .unwatched | .sending _ => False := by
  have hin : ((if cutTime ≤ g.width then some IdleFrom.bitEnd else none).any fun f =>
      lineIdle (idleCount g f)) = true ↔
      6000 ≤ g.width ∧ g.width + 12000 ≤ g.since := by
    by_cases hc : cutTime ≤ g.width
    · have h4 : max 4000 g.width = g.width := Nat.max_eq_right (Nat.le_trans (by decide) hc)
      rw [if_pos hc, Option.any_some, idleCount_bitEnd_iff, h4]
      exact (and_iff_right hc).symm
    · rw [if_neg hc]
      simp only [Option.any_none, Bool.false_eq_true, false_iff, not_and]
      exact fun h => absurd h hc
  unfold BusPort.idleAt BusPort.idleFrom
  cases hl : b.line with
  | outside f _ =>
    cases f with
    | bitEnd => exact idleCount_bitEnd_iff g
    | rise => exact idleCount_rise_iff g
  | receiving => exact hin
  | stopped => exact hin
  | unwatched => simp
  | sending _ => simp

/-! ## The S pins -/

theorem State.pin_stopped {s : State} (h : s.running = false) (pin : Pin) : s.pin pin = .low := by
  simp [State.pin, h]

theorem State.pin_running {s : State} (h : s.running = true) (pin : Pin) :
    s.pin pin = s.ports[pin.port].drive s.config.ports[pin.port].type pin.port s.pwm
      (pin.use s.config.ports[pin.port]) := by
  simp [State.pin, h]

@[simp] theorem Port.drive_unused (x : Port) (t : PortType) (p : Fin 4) (pwm : Vector Byte 12) :
    x.drive t p pwm .unused = .low := rfl

end Sys2Proof.Machine
end

