-- ==== Sys2Proof/Laws/Ports.lean ====
section
/-! SUPPORT. The string ports: their operations keep `PortsSound`. -/

namespace Sys2Proof.Machine

/-! ## One port -/

theorem Port.Sound.chain {c : PortConfig} {x : Port} (h : x.Sound c) (ha : x.activity ≠ .none) :
    c.type = .stream ∨ c.type = .confirmed := by
  cases hs : x.state
  · exact absurd (h.off hs).2 ha
  · exact absurd (h.idle hs).2 ha
  · exact (h.shifting hs).1
  · exact Or.inr (h.awaitEcho hs).1
  · exact Or.inr (h.faulted hs).1
  · exact (h.dark hs).2 ha

theorem Port.Sound.beginSend {c : PortConfig} {x : Port} (h : x.Sound c) (hs : x.state = .idle ∨ x.state = .shifting ∨ x.state = .awaitEcho)
    (hc : c.type = .stream ∨ c.type = .confirmed) (now : Clock) (f : PixelFrame) : (x.beginSend c now f).Sound c := by
  obtain ⟨h1, h2, h3, h4, h5, h6, h7, h8, h9, h10, h11, h12, h13⟩ := h
  have h7 : x.failureRun ≤ 2 := h7 (by rcases hs with h0 | h0 | h0 <;> rw [h0] <;> decide)
  have h8 : x.probeDeadline.isSome = false := by
    rw [Bool.eq_false_iff]; intro h0; have := h8.1 h0; rcases hs with h1 | h1 | h1 <;> rw [h1] at this <;> cases this
  have h9 : x.frameDeadline.isSome = true := h9.2 (by rcases hs with h0 | h0 | h0 <;> rw [h0] <;> decide)
  have h12 : x.reportedDark = false := by
    rw [Bool.eq_false_iff]; intro h0; have := (h12 h0).1; rcases hs with h1 | h1 | h1 <;> rw [h1] at this <;> cases this
  constructor <;> simp_all [Port.beginSend, Port.launch, Port.record]

theorem Port.Sound.finish {c : PortConfig} {x : Port} (h : x.Sound c) (hs : x.state = .shifting ∨ x.state = .awaitEcho)
    (now : Clock) : (x.finish c now).Sound c := by
  have hc : c.type = .stream ∨ c.type = .confirmed := by
    rcases hs with h0 | h0
    · exact (h.shifting h0).1
    · exact Or.inr (h.awaitEcho h0).1
  unfold Port.finish; split
  · exact h.beginSend (Or.inr hs) hc now _
  · rename_i hn
    obtain ⟨h1, h2, h3, h4, h5, h6, h7, h8, h9, h10, h11, h12, h13⟩ := h
    have h7 : x.failureRun ≤ 2 := h7 (by rcases hs with h0 | h0 <;> rw [h0] <;> decide)
    have h8 : x.probeDeadline.isSome = false := by
      rw [Bool.eq_false_iff]; intro h0; have := h8.1 h0; rcases hs with h1 | h1 <;> rw [h1] at this <;> cases this
    have h9 : x.frameDeadline.isSome = true := h9.2 (by rcases hs with h0 | h0 <;> rw [h0] <;> decide)
    have h12 : x.reportedDark = false := by
      rw [Bool.eq_false_iff]; intro h0; have := (h12 h0).1; rcases hs with h1 | h1 <;> rw [h1] at this <;> cases this
    have hoff : c.type ≠ .off := by rcases hc with h0 | h0 <;> rw [h0] <;> decide
    constructor <;> simp_all

theorem Port.Sound.start (c : PortConfig) (now : Clock) : (Port.start c now).Sound c := by
  unfold Port.start; split <;> constructor <;> simp_all [Port.powerOn]

theorem Port.Sound.powerOn (c : PortConfig) : Port.powerOn.Sound c := by
  constructor <;> simp [Port.powerOn]

theorem Port.Sound.darken {c : PortConfig} {x : Port} (h : x.Sound c) (now : Clock) : (x.darkOrder c now).Sound c := by
  unfold Port.darkOrder; split
  · exact h
  have hch := h.chain
  have hsh := h.shift
  split
  · constructor <;> simp_all [Port.darken]
  · constructor <;> simp_all [Port.darken]
  · rename_i hc; split
    · rename_i hs; constructor <;> simp_all [Port.darken]
    · constructor <;> simp_all [Port.darken, Port.beginDark]
  · rename_i hc; split
    · rename_i hs; constructor <;> simp_all [Port.darken]
    · constructor <;> simp_all [Port.darken, Port.beginDark]

theorem Port.darkOrder_state (x : Port) (c : PortConfig) (now : Clock) : (x.darkOrder c now).state = .dark := by
  unfold Port.darkOrder; (repeat' split) <;> first | assumption | rfl

theorem Port.Sound.backToWork {c : PortConfig} {x : Port} (h : x.Sound c) (now : Clock) : (x.backToWork c now).Sound c := by
  unfold Port.backToWork; split
  · split
    · exact Port.Sound.start c now
    · rename_i hd hc
      have hch := h.chain
      split
      · rename_i hs
        have ha : x.activity ≠ .none := by
          intro h0; simp [Port.isShifting, h0] at hs
        have := hch ha
        have hsh : x.shift.isSome = true := h.shift.2 (by simpa [Port.isShifting] using hs)
        constructor <;> simp_all [Port.start, Port.powerOn]
      · constructor <;> simp_all [Port.start, Port.powerOn]
  · exact h

theorem Port.backToWork_state (x : Port) (c : PortConfig) (now : Clock) : (x.backToWork c now).state ≠ .dark := by
  unfold Port.backToWork; (repeat' split) <;> first | assumption | skip
  · rename_i hc; simp [Port.start, hc]
  · simp
  · rename_i hc _; simp [Port.start, hc]

/-! ## The four ports -/

theorem PortsSound.of_frame {s t : State} (h : PortsSound s) (hp : t.ports = s.ports) (hw : t.pwm = s.pwm)
    (hc : t.config = s.config) (hn : t.nodeState = s.nodeState) : PortsSound t := by
  obtain ⟨h1, h2, h3⟩ := h
  have hr := State.running_congr hn
  exact ⟨by rw [hp, hc]; exact h1, by rw [hr, hn, hp]; exact h2, by rw [hr, hn, hp, hw]; exact h3⟩

/-- The node state changes between two in which the ports are lit, or two in which they are dark. -/
theorem PortsSound.of_node {s t : State} (h : PortsSound s) (hp : t.ports = s.ports) (hw : t.pwm = s.pwm)
    (hc : t.config = s.config)
    (hn : (t.running = false ∨ t.nodeState = .draining .ordered) ↔ (s.running = false ∨ s.nodeState = .draining .ordered)) :
    PortsSound t := by
  obtain ⟨h1, h2, h3⟩ := h
  refine ⟨by rw [hp, hc]; exact h1, fun hr ho => ?_, fun h0 => by rw [hp, hw]; exact h3 (hn.1 h0)⟩
  have : ¬(s.running = false ∨ s.nodeState = .draining .ordered) := fun h0 => by
    rcases hn.2 h0 with h0 | h0
    · rw [hr] at h0; cases h0
    · exact ho h0
  rw [hp]; exact h2 (by by_contra h0; exact this (Or.inl (by simpa using h0))) fun h0 => this (Or.inr h0)

theorem State.setPort_getElem (s : State) (p q : Fin 4) (x : Port) :
    (s.setPort p x).ports[q] = if p = q then x else s.ports[q] := by
  simp only [State.setPort, Fin.getElem_fin, Vector.getElem_set]
  by_cases h : p = q
  · simp [h]
  · have : p.val ≠ q.val := fun h0 => h (Fin.ext h0)
    simp [h, this]

/-- One port changes, and is DARK exactly if it was. -/
theorem PortsSound.setPort {s t : State} (h : PortsSound s) (p : Fin 4) {x : Port} (hx : x.Sound s.config.ports[p])
    (hd : x.state = .dark ↔ s.ports[p].state = .dark) (hp : t.ports = (s.setPort p x).ports)
    (hw : t.pwm = s.pwm ∨ s.ports[p].state ≠ .dark) (hc : t.config = s.config) (hn : t.nodeState = s.nodeState) :
    PortsSound t := by
  obtain ⟨h1, h2, h3⟩ := h
  have hr := State.running_congr hn
  refine ⟨fun q => ?_, fun h0 ho q => ?_, fun h0 => ?_⟩
  · rw [hp, State.setPort_getElem, hc]; split
    · rename_i hq; subst hq; exact hx
    · exact h1 q
  · rw [hr] at h0; rw [hn] at ho; rw [hp, State.setPort_getElem]; split
    · rename_i hq; subst hq; exact fun hdk => h2 h0 ho p (hd.1 hdk)
    · exact h2 h0 ho q
  · rw [hr, hn] at h0
    obtain ⟨g1, g2⟩ := h3 h0
    refine ⟨fun q => ?_, ?_⟩
    · rw [hp, State.setPort_getElem]; split
      · exact hd.2 (g1 p)
      · exact g1 q
    · rcases hw with hw | hw
      · rw [hw]; exact g2
      · exact absurd (g1 p) hw

theorem PortsSound.powerOn (r : Reader) (q : List Instr) : PortsSound (State.powerOn r q) := by
  refine ⟨fun p => ?_, fun h0 => (nomatch h0), fun _ => ⟨fun p => ?_, rfl⟩⟩
  · have : (State.powerOn r q).ports[p] = Port.powerOn := by simp [State.powerOn]
    rw [this]; exact Port.Sound.powerOn _
  · have : (State.powerOn r q).ports[p] = Port.powerOn := by simp [State.powerOn]
    rw [this]; rfl

theorem PortsSound.enterActive (s : State) (v : Millivolts) : PortsSound (s.enterActive v) := by
  have hp : ∀ p : Fin 4, (s.enterActive v).ports[p] = Port.start s.config.ports[p] 0 := by
    intro p; simp [State.enterActive, State.activated]
  have hc : (s.enterActive v).config = s.config := by simp [State.enterActive, State.activated]
  have hn : (s.enterActive v).nodeState = .active := by simp [State.enterActive, State.activated]
  refine ⟨fun p => ?_, fun _ _ p => ?_, fun h0 => ?_⟩
  · rw [hp, hc]; exact Port.Sound.start _ _
  · rw [hp]; unfold Port.start; split <;> simp
  · simp [State.running, hn] at h0

theorem PortsSound.darkCheck {s : State} (h : PortsSound s) : PortsSound s.darkCheck := by
  unfold State.darkCheck; split
  · refine ⟨fun p => ?_, fun _ ho => absurd rfl ho, fun _ => ⟨fun p => ?_, rfl⟩⟩
    · have : ({ s.darkPorts with nodeState := .draining .ordered } : State).ports[p] =
          s.ports[p].darkOrder s.config.ports[p] s.showClock := by simp [State.darkPorts]
      rw [this]; exact (h.port p).darken _
    · have : ({ s.darkPorts with nodeState := .draining .ordered } : State).ports[p] =
          s.ports[p].darkOrder s.config.ports[p] s.showClock := by simp [State.darkPorts]
      rw [this]; exact Port.darkOrder_state _ _ _
  · exact h

theorem PortsSound.beginDarkPhase {s : State} (h : PortsSound s) (hn : s.nodeState = .draining .proper) :
    PortsSound s.beginDarkPhase :=
  h.of_node rfl rfl rfl (by
    constructor <;> intro h0 <;> rcases h0 with h0 | h0
    · cases h0
    · cases h0
    · simp [State.running, hn] at h0
    · rw [hn] at h0; cases h0)

theorem PortsSound.drainCheck {s : State} (h : PortsSound s) : PortsSound s.drainCheck := by
  unfold State.drainCheck; split
  · rename_i hn; split
    · exact (h.beginDarkPhase hn).darkCheck
    · exact h
  · exact h.darkCheck
  all_goals exact h

theorem PortsSound.complete {s : State} (h : PortsSound s) {f : State → State}
    (hf : PortsSound { s with intake := { s.intake with slot := none } } →
      PortsSound (f { s with intake := { s.intake with slot := none } })) : PortsSound (s.complete f) :=
  (hf (h.of_frame rfl rfl rfl rfl)).of_frame rfl rfl rfl rfl

theorem PortsSound.sleep {s : State} (h : PortsSound s) (d : Byte) : PortsSound (s.sleep d) := by
  unfold State.sleep; split
  · rename_i ha
    refine PortsSound.drainCheck (h.of_node rfl rfl rfl ?_)
    constructor <;> intro h0 <;> rcases h0 with h0 | h0
    · cases h0
    · cases h0
    · simp [State.running, ha] at h0
    · rw [ha] at h0; cases h0
  all_goals exact h

theorem PortsSound.wake {s : State} (h : PortsSound s) : PortsSound s.wake := by
  unfold State.wake; split
  · have hp : ∀ p : Fin 4, s.returnPorts.ports[p] = s.ports[p].backToWork s.config.ports[p] s.showClock := by
      intro p; simp [State.returnPorts]
    refine ⟨fun p => ?_, fun _ _ p => ?_, fun h0 => ?_⟩
    · show s.returnPorts.ports[p].Sound s.config.ports[p]
      rw [hp]; exact (h.port p).backToWork _
    · show s.returnPorts.ports[p].state ≠ .dark
      rw [hp]; exact Port.backToWork_state _ _ _
    · rcases h0 with h0 | h0 <;> cases h0
  all_goals exact h

/-! ## The port commands -/

theorem portFrameEvent_ports {s : State} (h : PortsSound s) (p : Fin 4) : PortsSound (portFrameEvent p s) := by
  unfold portFrameEvent; dsimp only; split
  · rename_i hg; simp only [Bool.and_eq_true] at hg
    have hx : (s.ports[p].nextFrame s.config.ports[p]).Sound s.config.ports[p] := by
      obtain ⟨h1, h2, h3, h4, h5, h6, h7, h8, h9, h10, h11, h12, h13⟩ := h.port p
      exact ⟨h1, h2, h3, h4, h5, h6, h7, h8, by simpa [Port.nextFrame] using h9, h10, h11, h12, h13⟩
    have h1 : PortsSound (s.setPort p (s.ports[p].nextFrame s.config.ports[p])) :=
      h.setPort p hx Iff.rfl rfl (Or.inl rfl) rfl rfl
    split
    · rename_i hwk
      have hst : (s.setPort p (s.ports[p].nextFrame s.config.ports[p])).ports[p].state = s.ports[p].state := by
        rw [State.setPort_getElem, if_pos rfl]; rfl
      revert h1 hst
      generalize s.setPort p (s.ports[p].nextFrame s.config.ports[p]) = u
      intro h1 hst
      rw [← hst] at hwk
      unfold State.frameEvent; dsimp only; split
      · unfold State.post; dsimp only; split <;> rename_i hu
        · have hs := h1.port p
          split
          · refine h1.setPort p (x := u.ports[p].record u.config.ports[p] u.showClock (u.compose p)) ?_ Iff.rfl rfl
              (Or.inr (by rw [hu]; decide)) rfl rfl
            obtain ⟨h1, h2, h3, h4, h5, h6, h7, h8, h9, h10, h11, h12, h13⟩ := hs
            exact ⟨fun h0 => (nomatch h0), h2, h3, h4, h5, h6, h7, h8, h9, h10, h11, h12, h13⟩
          · rename_i hpw
            refine h1.setPort p (hs.beginSend (Or.inl hu) ?_ _ _) ?_ rfl (Or.inl rfl) rfl rfl
            · have := (hs.idle hu).1
              cases ht : u.config.ports[p].type <;> simp_all
            · rw [hu]; exact ⟨fun h0 => (nomatch h0), fun h0 => (nomatch h0)⟩
        · refine h1.setPort p (x := { u.ports[p] with slot := some (u.compose p) }) ?_ Iff.rfl (by simp) (Or.inl (by simp [State.setPort]))
            (by simp [State.setPort]) (by simp [State.setPort])
          obtain ⟨h1, h2, h3, h4, h5, h6, h7, h8, h9, h10, h11, h12, h13⟩ := h1.port p
          exact ⟨fun _ => Or.inl hu, h2, h3, h4, h5, h6, h7, h8, h9, h10, h11, h12, h13⟩
        · refine h1.setPort p (x := { u.ports[p] with slot := some (u.compose p) }) ?_ Iff.rfl (by simp) (Or.inl (by simp [State.setPort]))
            (by simp [State.setPort]) (by simp [State.setPort])
          obtain ⟨h1, h2, h3, h4, h5, h6, h7, h8, h9, h10, h11, h12, h13⟩ := h1.port p
          exact ⟨fun _ => Or.inr hu, h2, h3, h4, h5, h6, h7, h8, h9, h10, h11, h12, h13⟩
        all_goals exact h1
      · exact h1
    · exact h1
  · exact h

/-- The dark frame begins on a DARK port. -/
theorem Port.Sound.beginDark {c : PortConfig} {x : Port} (h : x.Sound c) (hd : x.state = .dark) (ha : x.activity = .shifting)
    (now : Clock) : (x.beginDark c now).Sound c := by
  obtain ⟨h1, h2, h3, h4, h5, h6, h7, h8, h9, h10, h11, h12, h13⟩ := h
  constructor <;> simp_all [Port.beginDark]

theorem sendFinish_ports {s : State} (h : PortsSound s) (p : Fin 4) : PortsSound (sendFinish p s) := by
  unfold sendFinish; dsimp only; split
  · rename_i hg; simp only [Bool.and_eq_true, decide_eq_true_eq] at hg
    split <;> rename_i hs
    · refine h.setPort p ((h.port p).finish (Or.inl hs) _) ?_ rfl (Or.inl rfl) rfl rfl
      rw [hs]; unfold Port.finish; split <;> simp [Port.beginSend, Port.launch]
    · exact h.setPort p ((h.port p).beginDark hs hg.2 _) (by simp [Port.beginDark]) rfl (Or.inl rfl) rfl rfl
    all_goals exact h
  · exact h

theorem markerShifted_ports {s : State} (h : PortsSound s) (p : Fin 4) : PortsSound (markerShifted p s) := by
  unfold markerShifted; dsimp only; split
  · rename_i hg; simp only [Bool.and_eq_true, decide_eq_true_eq] at hg
    split <;> rename_i hs
    · split
      · refine h.setPort p (x := { s.ports[p].beginEchoWait s.showClock with state := .awaitEcho }) ?_ ?_ rfl (Or.inl rfl) rfl rfl
        · obtain ⟨h1, h2, h3, h4, h5, h6, h7, h8, h9, h10, h11, h12, h13⟩ := h.port p
          constructor <;> simp_all [Port.beginEchoWait]
        · rw [hs]; simp
      · refine h.setPort p ((h.port p).finish (Or.inl hs) _) ?_ rfl (Or.inl rfl) rfl rfl
        rw [hs]; unfold Port.finish; split <;> simp [Port.beginSend, Port.launch]
    · refine h.setPort p (x := s.ports[p].beginEchoWait s.showClock) ?_ Iff.rfl rfl (Or.inl rfl) rfl rfl
      obtain ⟨h1, h2, h3, h4, h5, h6, h7, h8, h9, h10, h11, h12, h13⟩ := h.port p
      constructor <;> simp_all [Port.beginEchoWait]
    · exact h.setPort p ((h.port p).beginDark hs hg.2 _) (by simp [Port.beginDark]) rfl (Or.inl rfl) rfl rfl
    all_goals exact h
  · exact h

theorem darkFrameSent_ports {s : State} (h : PortsSound s) (p : Fin 4) : PortsSound (darkFrameSent p s) := by
  unfold darkFrameSent; dsimp only; split
  · rename_i hg; simp only [Bool.and_eq_true, decide_eq_true_eq] at hg
    refine h.setPort p (x := { s.ports[p] with activity := .none, shift := none, reportedDark := true }) ?_ Iff.rfl rfl (Or.inl rfl) rfl rfl
    obtain ⟨h1, h2, h3, h4, h5, h6, h7, h8, h9, h10, h11, h12, h13⟩ := h.port p
    constructor <;> simp_all
  · exact h

theorem State.echoFailed_sound {s : State} (h : PortsSound s) (p : Fin 4)
    (hs : s.ports[p].state = .awaitEcho ∨ s.ports[p].state = .faulted) : PortsSound (s.echoFailed p) := by
  unfold State.echoFailed; dsimp only; split
  · rename_i hf
    refine h.setPort p (x := { s.ports[p] with activity := .none, shift := none, echoTimeout := none }) ?_ Iff.rfl rfl (Or.inl rfl) rfl rfl
    obtain ⟨h1, h2, h3, h4, h5, h6, h7, h8, h9, h10, h11, h12, h13⟩ := h.port p
    constructor <;> simp_all
  · rename_i hf
    have hs : s.ports[p].state = .awaitEcho := hs.resolve_right hf
    split
    · refine h.setPort p (x := s.ports[p].fault s.showClock) ?_ ?_ (by simp) (Or.inl (by simp [State.setPort])) (by simp [State.setPort]) (by simp [State.setPort])
      · obtain ⟨h1, h2, h3, h4, h5, h6, h7, h8, h9, h10, h11, h12, h13⟩ := h.port p
        constructor <;> simp_all [Port.fault]
      · rw [hs]; simp [Port.fault]
    · rename_i hr
      have h1 : ({ s.ports[p] with failureRun := s.ports[p].failureRun + 1, forced := true } : Port).Sound s.config.ports[p] := by
        obtain ⟨h1, h2, h3, h4, h5, h6, h7, h8, h9, h10, h11, h12, h13⟩ := h.port p
        exact ⟨h1, h2, h3, h4, h5, fun h0 => absurd h0 hf, fun _ => by dsimp only; omega, h8, h9, h10, h11, h12, h13⟩
      refine h.setPort p (h1.finish (Or.inr hs) s.showClock) ?_ rfl (Or.inl rfl) rfl rfl
      rw [hs]; unfold Port.finish; split <;> simp [Port.beginSend, Port.launch]

theorem State.awaitsEcho_state {s : State} {p : Fin 4} (h : s.awaitsEcho p = true) :
    s.ports[p].activity = .echoWait ∧ (s.ports[p].state = .awaitEcho ∨ s.ports[p].state = .faulted) := by
  simp only [State.awaitsEcho, Bool.and_eq_true, Bool.or_eq_true, decide_eq_true_eq] at h
  exact ⟨h.1.2, h.2⟩

theorem echoArrival_ports {s : State} (h : PortsSound s) (p : Fin 4) (e : BitVec 32) : PortsSound (echoArrival p e s) := by
  unfold echoArrival; dsimp only; split
  · rename_i hg
    obtain ⟨ha, hs⟩ := State.awaitsEcho_state hg
    split
    · unfold Port.echoCorrect
      by_cases hf : s.ports[p].state = .faulted
      · rw [if_pos hf]
        refine h.setPort p (x := { s.ports[p] with
          state := .idle, activity := .none, shift := none, failureRun := 0, probeDeadline := none, forced := true, echoTimeout := none })
          ?_ ?_ rfl (Or.inl rfl) rfl rfl
        · obtain ⟨h1, h2, h3, h4, h5, h6, h7, h8, h9, h10, h11, h12, h13⟩ := h.port p
          constructor <;> simp_all
        · rw [hf]; simp
      · rw [if_neg hf]
        have hs : s.ports[p].state = .awaitEcho := hs.resolve_right hf
        have h1 : ({ s.ports[p] with failureRun := 0 } : Port).Sound s.config.ports[p] := by
          obtain ⟨h1, h2, h3, h4, h5, h6, h7, h8, h9, h10, h11, h12, h13⟩ := h.port p
          exact ⟨h1, h2, h3, h4, h5, fun h0 => absurd h0 hf, fun _ => Nat.zero_le _, h8, h9, h10, h11, h12, h13⟩
        refine h.setPort p (h1.finish (Or.inr hs) s.showClock) ?_ rfl (Or.inl rfl) rfl rfl
        rw [hs]; unfold Port.finish; split <;> simp [Port.beginSend, Port.launch]
    · exact State.echoFailed_sound h p hs
  · exact h

theorem echoTimeout_ports {s : State} (h : PortsSound s) (p : Fin 4) : PortsSound (echoTimeout p s) := by
  unfold echoTimeout; split
  · rename_i hg; exact State.echoFailed_sound h p (State.awaitsEcho_state hg).2
  · exact h

theorem probeDeadline_ports {s : State} (h : PortsSound s) (p : Fin 4) : PortsSound (probeDeadline p s) := by
  unfold probeDeadline; dsimp only; split
  · rename_i hg; simp only [Bool.and_eq_true, decide_eq_true_eq] at hg
    refine h.setPort p (x := s.ports[p].beginProbe s.config.ports[p] s.showClock (s.compose p)) ?_ Iff.rfl rfl (Or.inl rfl) rfl rfl
    obtain ⟨h1, h2, h3, h4, h5, h6, h7, h8, h9, h10, h11, h12, h13⟩ := h.port p
    constructor <;> simp_all [Port.beginProbe, Port.launch, Port.record]
  · exact h

end Sys2Proof.Machine
end

