-- ==== Sys2Proof/Laws/Queue.lean ====
section
/-! SUPPORT. The outgoing queue's operations keep `QueueSound`. -/

namespace Sys2Proof.Machine

/-! ## Lists of entries -/

/-- What the place and the identity of an entry are made of. -/
def SendEntry.SamePlace (a b : SendEntry) : Prop :=
  a.header = b.header ∧ a.order = b.order ∧ a.kind = b.kind ∧ a.wave = b.wave

theorem SendEntry.Ahead.of_same {a b a' b' : SendEntry} (h : a.Ahead b) (ha : a'.SamePlace a) (hb : b'.SamePlace b) :
    a'.Ahead b' := by
  simp_all [SendEntry.Ahead, SendEntry.SamePlace]

theorem SendEntry.Apart.of_same {a b a' b' : SendEntry} (h : a.Apart b) (ha : a'.SamePlace a) (hb : b'.SamePlace b) :
    a'.Apart b' := by
  simp_all [SendEntry.Apart, SendEntry.SamePlace]

theorem SendEntry.Apart.symm {a b : SendEntry} (h : a.Apart b) : b.Apart a := by
  refine ⟨fun e => h.1 e.symm, fun e => h.2 ⟨e.1.symm, e.2.symm⟩⟩

theorem insertEntry_perm (e : SendEntry) (es : List SendEntry) : (insertEntry e es).Perm (e :: es) := by
  induction es with
  | nil => exact List.Perm.refl _
  | cons x xs ih =>
    unfold insertEntry; split
    · exact List.Perm.refl _
    · exact (List.Perm.cons x ih).trans (List.Perm.swap e x xs)

theorem insertEntry_ordered {e : SendEntry} {es : List SendEntry} (h : es.Pairwise SendEntry.Ahead)
    (ho : ∀ x ∈ es, x.order < e.order) : (insertEntry e es).Pairwise SendEntry.Ahead := by
  induction es with
  | nil => simp [insertEntry]
  | cons x xs ih =>
    rw [List.pairwise_cons] at h
    unfold insertEntry; split
    · rename_i hlt
      refine List.pairwise_cons.2 ⟨?_, List.pairwise_cons.2 h⟩
      intro y hy
      rcases List.mem_cons.1 hy with rfl | hy
      · exact .inl hlt
      · rcases h.1 y hy with h1 | h1
        · exact .inl (Nat.lt_trans hlt h1)
        · exact .inl (h1.1 ▸ hlt)
    · rename_i hge
      refine List.pairwise_cons.2 ⟨?_, ih h.2 fun y hy => ho y (List.mem_cons_of_mem _ hy)⟩
      intro y hy
      rcases List.mem_cons.1 ((insertEntry_perm e xs).mem_iff.1 hy) with rfl | hy
      · rcases Nat.lt_or_ge x.header.toNat y.header.toNat with h1 | h1
        · exact .inl h1
        · exact .inr ⟨BitVec.eq_of_toNat_eq (by omega), ho x List.mem_cons_self⟩
      · exact h.1 y hy

/-! ## Entries kept, changed or removed in place -/

/-- A change of entries in place, and removals, keep the queue sound. -/
theorem QueueSound.filterMap {s t : State} (h : QueueSound s) (g : SendEntry → Option SendEntry)
    (hg : ∀ e ∈ s.out.entries, ∀ e', g e = some e' → e'.SamePlace e ∧ e'.Sound t.config.zone)
    (he : t.out.entries = s.out.entries.filterMap g) (hn : t.out.nextOrder = s.out.nextOrder)
    (hk : t.takesRequests = false → t.out.entries = [])
    (ha : (t.out.entries.filter SendEntry.inFlight).length = t.bus.inAttempt.toNat)
    (hs : t.bus.inAttempt = true → t.takesRequests = true) : QueueSound t where
  entry := by
    intro e' h'
    rw [he, List.mem_filterMap] at h'
    obtain ⟨e, hm, hge⟩ := h'
    exact (hg e hm e' hge).2
  length := by
    rw [he]; exact (List.length_filterMap_le _ _).trans h.length
  ordered := by
    rw [he, List.pairwise_filterMap]
    exact h.ordered.imp_of_mem fun {a b} ha hb hab a' ha' b' hb' =>
      hab.of_same (hg a ha a' ha').1 (hg b hb b' hb').1
  apart := by
    rw [he, List.pairwise_filterMap]
    exact h.apart.imp_of_mem fun {a b} ha hb hab a' ha' b' hb' =>
      hab.of_same (hg a ha a' ha').1 (hg b hb b' hb').1
  counter := by
    intro e' h'
    rw [he, List.mem_filterMap] at h'
    obtain ⟨e, hm, hge⟩ := h'
    rw [(hg e hm e' hge).1.2.1, hn]
    exact h.counter e hm
  empty := hk
  attempt := ha
  speaking := hs

theorem QueueSound.of_eq {s t : State} (h : QueueSound s) (ho : t.out = s.out) (hz : t.config.zone = s.config.zone)
    (hk : t.takesRequests = s.takesRequests) (ha : t.bus.inAttempt = s.bus.inAttempt) : QueueSound t := by
  obtain ⟨h1, h2, h3, h4, h5, h6, h7, h8⟩ := h
  constructor <;> simp_all

theorem State.takesRequests_congr {s t : State} (hb : t.bus = s.bus) (hr : t.running = s.running) :
    t.takesRequests = s.takesRequests := by
  simp [State.takesRequests, hb, hr]

theorem QueueSound.of_frame {s t : State} (h : QueueSound s) (ho : t.out = s.out) (hb : t.bus = s.bus)
    (hc : t.config = s.config) (hr : t.running = s.running) : QueueSound t :=
  h.of_eq ho (by rw [hc]) (State.takesRequests_congr hb hr) (by rw [hb])

theorem filter_map_inFlight (f : SendEntry → SendEntry) (hf : ∀ e, (f e).inFlight = e.inFlight)
    (es : List SendEntry) : ((es.map f).filter SendEntry.inFlight).length = (es.filter SendEntry.inFlight).length := by
  rw [List.filter_map, List.length_map]
  congr 2; funext e; exact hf e

/-- A change of every entry in place keeps the queue sound. -/
theorem QueueSound.map {s t : State} (h : QueueSound s) (f : SendEntry → SendEntry)
    (hp : ∀ e, (f e).SamePlace e ∧ (f e).inFlight = e.inFlight)
    (hf : ∀ e, e.Sound s.config.zone → (f e).Sound s.config.zone)
    (he : t.out.entries = s.out.entries.map f) (hn : t.out.nextOrder = s.out.nextOrder) (hb : t.bus = s.bus)
    (hc : t.config = s.config) (hr : t.running = s.running) : QueueSound t := by
  have hk := State.takesRequests_congr hb hr
  refine h.filterMap (fun e => some (f e)) ?_ (by rw [he]; simp [List.filterMap_eq_map']) hn ?_ ?_ ?_
  · rintro e hm e' h'; cases h'; rw [hc]; exact ⟨(hp e).1, hf e (h.entry e hm)⟩
  · intro h0; rw [hk] at h0; rw [he, h.empty h0]; rfl
  · rw [he, filter_map_inFlight f (fun e => (hp e).2), h.attempt, hb]
  · intro h0; rw [hb] at h0; rw [hk]; exact h.speaking h0

theorem SendEntry.Sound.unmark {z : ZoneNo} {e : SendEntry} (h : e.Sound z) (g : NoticeGroup) :
    (e.unmark g).Sound z := by
  obtain ⟨h1, h2, h3, h4, h5, h6⟩ := h
  refine ⟨h1, h2, h3, h4, h5, fun hm => h6 fun h0 => hm ?_⟩
  simp only [SendEntry.unmark, h0]
  cases g <;> rfl

theorem QueueSound.raise {s : State} (h : QueueSound s) (n : Notice) : QueueSound (s.raise n) :=
  h.map (SendEntry.unmark n.group) (fun _ => ⟨⟨rfl, rfl, rfl, rfl⟩, rfl⟩) (fun _ he => he.unmark _) rfl rfl rfl rfl rfl

theorem QueueSound.raiseIf {s : State} (h : QueueSound s) (c : Bool) (n : Notice) : QueueSound (s.raiseIf c n) := by
  cases c
  · exact h
  · exact h.raise n

/-! ## Requests -/

theorem SendEntry.fresh_sound (z : ZoneNo) (o : Nat) (r : Request) (hr : r.wave.isSome = true ↔ r.kind = .handoff) :
    (SendEntry.fresh z o r).Sound z := by
  refine ⟨rfl, ⟨?_, Nat.le_refl _⟩, hr, ?_, ?_, ?_⟩
  · simp only [SendEntry.fresh]; cases r.kind <;> decide
  all_goals simp [SendEntry.fresh]

/-- A joining entry keeps the queue sound. -/
theorem QueueSound.join {s : State} (h : QueueSound s) (r : Request) (hr : r.wave.isSome = true ↔ r.kind = .handoff)
    (hk : s.takesRequests = true) (hl : s.out.entries.length < 4)
    (hn : ∀ e ∈ s.out.entries, e.answers r = false) :
    QueueSound { s with out := s.out.join s.config.zone r } := by
  have hp := insertEntry_perm (SendEntry.fresh s.config.zone s.out.nextOrder r) s.out.entries
  have hm : ∀ e ∈ (s.out.join s.config.zone r).entries,
      e = SendEntry.fresh s.config.zone s.out.nextOrder r ∨ e ∈ s.out.entries := fun e he =>
    List.mem_cons.1 (hp.mem_iff.1 he)
  refine ⟨?_, ?_, ?_, ?_, ?_, ?_, ?_, ?_⟩
  · intro e he
    rcases hm e he with rfl | he
    · exact SendEntry.fresh_sound _ _ _ hr
    · exact h.entry e he
  · rw [show (s.out.join s.config.zone r).entries.length = s.out.entries.length + 1 from hp.length_eq]; omega
  · exact insertEntry_ordered h.ordered h.counter
  · refine (hp.pairwise_iff (fun h => SendEntry.Apart.symm h)).2 (List.pairwise_cons.2 ⟨?_, h.apart⟩)
    intro e he
    refine ⟨fun h0 => ?_, fun h0 => ?_⟩
    · have := h.counter e he; simp only [SendEntry.fresh] at h0; omega
    · have := hn e he; simp_all [SendEntry.answers, SendEntry.fresh]
  · intro e he
    rcases hm e he with rfl | he
    · exact Nat.lt_succ_self _
    · exact Nat.lt_succ_of_lt (h.counter e he)
  · intro h0; exact absurd (hk.symm.trans h0) (by decide)
  · rw [show (s.out.join s.config.zone r).entries = insertEntry _ _ from rfl, (hp.filter _).length_eq,
      List.filter_cons_of_neg (by simp [SendEntry.fresh]), h.attempt]
  · exact h.speaking

theorem freeEntry_mem {k : SendKind} {es : List SendEntry} {v : SendEntry} (h : freeEntry k es = some v) :
    v ∈ es ∧ v.inFlight = false := by
  have h1 := List.find?_some h
  simp only [Bool.and_eq_true, Bool.not_eq_true'] at h1
  exact ⟨List.mem_of_find?_eq_some h, h1.2⟩

theorem latest_mem {es : List SendEntry} : ∀ {b : Option SendEntry} {v : SendEntry},
    es.foldl (fun best e => match best with
      | none => some e
      | some b => if b.order < e.order then some e else some b) b = some v → v ∈ es ∨ b = some v := by
  induction es with
  | nil => intro b v h; exact .inr h
  | cons x xs ih =>
    intro b v h
    rcases ih h with h | h
    · exact .inl (List.mem_cons_of_mem _ h)
    · dsimp only at h
      split at h
      · cases h; exact .inl List.mem_cons_self
      · split at h
        · cases h; exact .inl List.mem_cons_self
        · exact .inr h

theorem latestHandoff_mem {es : List SendEntry} {v : SendEntry} (h : latestHandoff es = some v) :
    v ∈ es ∧ v.inFlight = false := by
  rcases latest_mem h with h | h
  · have := List.mem_filter.1 h
    simp only [Bool.and_eq_true, Bool.not_eq_true'] at this
    exact ⟨this.1, this.2.2⟩
  · cases h

/-- What is evicted is an entry of the queue that is not in flight. -/
theorem victim_mem {k : SendKind} {es : List SendEntry} {v : SendEntry} (h : victim k es = some v) :
    v ∈ es ∧ v.inFlight = false := by
  unfold victim at h
  split at h
  · rcases Option.or_eq_some_iff.1 h with h | h
    · exact freeEntry_mem h
    · exact freeEntry_mem h.2
  · rcases Option.or_eq_some_iff.1 h with h | h
    · rcases Option.or_eq_some_iff.1 h with h | h
      · exact freeEntry_mem h
      · exact freeEntry_mem h.2
    · exact latestHandoff_mem h.2
  all_goals cases h

theorem removeOrder_length {v : SendEntry} {es : List SendEntry} (h : v ∈ es) :
    (removeOrder v.order es).length < es.length := by
  refine List.length_filter_lt_length_iff_exists.2 ⟨v, h, by simp⟩

/-- Removing an entry that is not in flight keeps the queue sound. -/
theorem QueueSound.remove {s : State} (h : QueueSound s) {v : SendEntry} (hv : v ∈ s.out.entries)
    (hf : v.inFlight = false) :
    QueueSound { s with out := { s.out with entries := removeOrder v.order s.out.entries } } := by
  refine h.filterMap (Option.guard fun e => decide (e.order ≠ v.order)) ?_ ?_ rfl ?_ ?_ h.speaking
  · intro e hm e' he
    obtain ⟨rfl, -⟩ := Option.guard_eq_some_iff.1 he
    exact ⟨⟨rfl, rfl, rfl, rfl⟩, h.entry e hm⟩
  · simp [removeOrder, List.filterMap_eq_filter]
  · intro h0; simp [removeOrder, h.empty h0]
  · rw [← h.attempt]
    congr 1
    simp only [removeOrder, List.filter_filter]
    refine List.filter_congr fun e he => ?_
    by_cases ho : e.order = v.order
    · have : e = v := by
        by_contra hne
        have : Std.Symm SendEntry.Apart := ⟨fun _ _ h => h.symm⟩
        exact (h.apart.forall he hv hne).1 ho
      subst this; simp [hf]
    · simp [ho]

/-- Every request keeps the queue sound (R54 to R61). -/
theorem QueueSound.request {s : State} (h : QueueSound s) (r : Request)
    (hr : r.wave.isSome = true ↔ r.kind = .handoff) : QueueSound (s.request r) := by
  unfold State.request
  split
  · exact h
  rename_i hk; simp only [Bool.not_eq_true', Bool.not_eq_false] at hk
  split
  · refine h.map (SendEntry.fold r) ?_ ?_ rfl rfl rfl rfl rfl
    · intro e; unfold SendEntry.fold; split <;> exact ⟨⟨rfl, rfl, rfl, rfl⟩, rfl⟩
    · intro e he
      unfold SendEntry.fold; split
      · rename_i hg
        simp only [SendEntry.answers, Bool.and_eq_true, decide_eq_true_eq] at hg
        obtain ⟨h1, h2, h3, h4, h5, h6⟩ := he
        exact ⟨h1, h2, h3, fun _ => ⟨hg.1.2, hg.1.1.1 ▸ hg.2⟩, h5, h6⟩
      · exact he
  rename_i hany
  have hn : ∀ e ∈ s.out.entries, e.answers r = false := by simpa using hany
  split
  · rename_i hl; exact h.join r hr hk hl hn
  split
  · rename_i v hv
    obtain ⟨hm, hf⟩ := victim_mem hv
    have h1 := (h.remove hm hf).raise .sendDropped
    refine h1.join r hr hk ?_ ?_
    · have h2 : (removeOrder v.order s.out.entries).length < s.out.entries.length := removeOrder_length hm
      have h3 := h.length
      simp only [State.raise_entries, List.length_map]; omega
    · intro e he
      simp only [State.raise_entries, List.mem_map] at he
      obtain ⟨e0, h0, rfl⟩ := he
      exact hn e0 (List.mem_filter.1 h0).1
  · exact h.raise _

theorem QueueSound.report {s : State} (h : QueueSound s) (k : SendKind) (hk : k ≠ .handoff) :
    QueueSound (s.request (.report k)) := h.request _ (by simp [Request.report, hk])

theorem QueueSound.handoff {s : State} (h : QueueSound s) (key : CueKey) (route : BitVec 3) :
    QueueSound (s.request (.handoff key route)) := h.request _ (by simp [Request.handoff])

/-! ## Attempts and their outcomes -/

/-- A settling rule takes the entry out of flight, or removes it, and leaves it sound. -/
def Settles (f : SendEntry → Option SendEntry) : Prop :=
  ∀ z e, SendEntry.Sound z e → e.inFlight = true → ∀ e', f e = some e' →
    e'.SamePlace e ∧ e'.Sound z ∧ e'.inFlight = false

theorem SendEntry.Sound.rest {z : ZoneNo} {e : SendEntry} (h : e.Sound z) (hw : e.withdrawn = false) :
    e.rest.Sound z := by
  obtain ⟨h1, h2, h3, h4, h5, h6⟩ := h
  exact ⟨h1, h2, h3, by simp [SendEntry.rest], by simp [SendEntry.rest, hw], by simp [SendEntry.rest]⟩

theorem SendEntry.Sound.renewed {z : ZoneNo} {e : SendEntry} (h : e.Sound z) (hw : e.withdrawn = false) :
    e.renewed.Sound z := by
  obtain ⟨h1, h2, h3, h4, h5, h6⟩ := h.rest hw
  refine ⟨h1, ⟨?_, Nat.le_refl _⟩, h3, h4, h5, h6⟩
  simp only [SendEntry.renewed]; cases e.kind <;> decide

theorem afterSent_settles : Settles afterSent := by
  intro z e he _ e' h
  unfold afterSent at h
  split at h
  · cases h
  · rename_i hw
    split at h
    · cases h; exact ⟨⟨rfl, rfl, rfl, rfl⟩, he.renewed (by simpa using hw), rfl⟩
    · cases h

theorem afterVoided_settles : Settles afterVoided := by
  intro z e he _ e' h
  unfold afterVoided at h
  split at h
  · cases h
  · rename_i hw
    have hw : e.withdrawn = false := by simpa using hw
    split at h
    · rename_i hb
      cases h
      obtain ⟨h1, h2, h3, h4, h5, h6⟩ := he.rest hw
      refine ⟨⟨rfl, rfl, rfl, rfl⟩, ⟨h1, ?_, h3, h4, h5, h6⟩, rfl⟩
      have := he.budget
      show 1 ≤ e.budget - 1 ∧ e.budget - 1 ≤ _
      simp only [SendEntry.rest]; omega
    · split at h
      · cases h; exact ⟨⟨rfl, rfl, rfl, rfl⟩, he.renewed hw, rfl⟩
      · cases h

theorem afterLost_settles : Settles afterLost := by
  intro z e he _ e' h
  unfold afterLost at h
  split at h
  · cases h
  · rename_i hw; cases h; exact ⟨⟨rfl, rfl, rfl, rfl⟩, he.rest (by simpa using hw), rfl⟩

/-- After a settling nothing is in flight. -/
theorem settle_grounded {z : ZoneNo} {f : SendEntry → Option SendEntry} (hf : Settles f) {es : List SendEntry}
    (he : ∀ e ∈ es, e.Sound z) : (settleInFlight f es).filter SendEntry.inFlight = [] := by
  refine List.filter_eq_nil_iff.2 fun e' h' => ?_
  obtain ⟨e, hm, hg⟩ := List.mem_filterMap.1 h'
  split at hg
  · rename_i hi; simp [(hf z e (he e hm) hi e' hg).2.2]
  · cases hg; assumption

/-- The end of an attempt keeps the queue sound: `t` is the state whose queue is `s`'s settled by `f`. -/
theorem QueueSound.settled {s t : State} (h : QueueSound s) {f : SendEntry → Option SendEntry} (hf : Settles f)
    (he : t.out.entries = settleInFlight f s.out.entries) (hn : t.out.nextOrder = s.out.nextOrder)
    (hc : t.config = s.config) (hk : t.takesRequests = s.takesRequests) (ha : t.bus.inAttempt = false) :
    QueueSound t := by
  refine h.filterMap (fun e => if e.inFlight then f e else some e) ?_ he hn ?_ ?_ (by simp [ha])
  · intro e hm e' hg
    rw [hc]
    split at hg
    · rename_i hi
      have := hf _ e (h.entry e hm) hi e' hg
      exact ⟨this.1, this.2.1⟩
    · cases hg; exact ⟨⟨rfl, rfl, rfl, rfl⟩, h.entry e hm⟩
  · intro h0; rw [hk] at h0; rw [he, h.empty h0]; rfl
  · rw [he, settle_grounded hf h.entry, ha]; rfl

/-- An empty queue with no attempt in flight is sound. -/
theorem QueueSound.of_empty {t : State} (he : t.out.entries = []) (ha : t.bus.inAttempt = false) : QueueSound t := by
  constructor <;> simp [he, ha]

theorem raiseIf_entries (s : State) (c : Bool) (n : Notice) :
    (s.raiseIf c n).out.entries = if c then s.out.entries.map (SendEntry.unmark n.group) else s.out.entries := by
  cases c <;> rfl

@[simp] theorem State.discardQueue_entries (s : State) : s.discardQueue.out.entries = [] := by
  simp [State.discardQueue, raiseIf_entries]

theorem State.attemptVoided_queue {s : State} (h : QueueSound s) : QueueSound s.attemptVoided := by
  have hq : QueueSound (s.settleVoided.watch (.outside .bitEnd 0)) := by
    have h1 : QueueSound ((s.settle afterVoided).watch (.outside .bitEnd 0)) :=
      h.settled afterVoided_settles rfl rfl rfl rfl rfl
    have h2 := h1.raiseIf (s.inFlightEntry.any voidDrops) .sendDropped
    refine h2.of_eq ?_ ?_ ?_ ?_
    · unfold State.settleVoided State.watch State.raiseIf; split <;> rfl
    · simp [State.settleVoided]
    · exact State.takesRequests_congr (by simp [State.settleVoided]) (State.running_congr (by simp [State.settleVoided]))
    · simp [State.settleVoided]
  unfold State.attemptVoided State.countVoid
  split
  · exact hq.of_eq rfl rfl rfl rfl
  · refine QueueSound.of_empty (by simp [State.enterListenOnly]) ?_
    simp [State.enterListenOnly, BusPort.quiet, BusPort.inAttempt]

theorem attemptStart_queue {s : State} (h : QueueSound s) (g : Gap) : QueueSound (attemptStart g s) := by
  unfold attemptStart; split
  · rename_i head rest he
    split
    · rename_i hg
      simp only [State.maySend, Bool.and_eq_true, decide_eq_true_eq] at hg
      obtain ⟨⟨hr, hs⟩, ho⟩ := hg
      have ha : s.bus.inAttempt = false := (BusPort.inAttempt_of_idleAt ho).1
      have hcount := h.attempt
      rw [ha] at hcount
      have hnone : ∀ e ∈ s.out.entries, e.inFlight = false := by
        intro e hm
        have h0 : s.out.entries.filter SendEntry.inFlight = [] := List.eq_nil_of_length_eq_zero hcount
        have := (List.filter_eq_nil_iff.1 h0) e hm
        simpa using this
      have hhead : head ∈ s.out.entries := by rw [he]; exact List.mem_cons_self
      have hrest : ∀ e ∈ rest, e.inFlight = false := fun e hm => hnone e (by rw [he]; exact List.mem_cons_of_mem _ hm)
      have hfl : rest.filter SendEntry.inFlight = [] := List.filter_eq_nil_iff.2 (by simpa using hrest)
      have hk : s.takesRequests = true := by simp [State.takesRequests, hr, hs]
      obtain ⟨h1, h2, h3, h4, h5, h6, h7, h8⟩ := h
      rw [he] at h1 h2 h3 h4 h5
      refine ⟨?_, h2, ?_, ?_, ?_, ?_, ?_, ?_⟩
      · intro e hm
        rcases List.mem_cons.1 hm with rfl | hm
        · obtain ⟨g1, g2, g3, g4, g5, g6⟩ := h1 head List.mem_cons_self
          refine ⟨g1, g2, g3, fun h0 => ?_, fun h0 => ?_, fun h0 => ⟨rfl, ?_⟩⟩
          · exact ⟨rfl, (g4 h0).2⟩
          · exact ⟨rfl, (g5 h0).2⟩
          · by_contra hne; simp [State.launched] at h0; exact hne h0.1
        · exact h1 e (List.mem_cons_of_mem _ hm)
      · rw [List.pairwise_cons] at h3; exact List.pairwise_cons.2 h3
      · rw [List.pairwise_cons] at h4; exact List.pairwise_cons.2 h4
      · intro e hm
        rcases List.mem_cons.1 hm with rfl | hm
        · exact h5 head List.mem_cons_self
        · exact h5 e (List.mem_cons_of_mem _ hm)
      · intro h0; exact absurd (hk.symm.trans h0) (by decide)
      · show ((s.launched head :: rest).filter SendEntry.inFlight).length = _
        rw [List.filter_cons_of_pos rfl, hfl]; rfl
      · intro _; exact hk
    · exact h
  · exact h

/-- A CANCEL's keys leave the queue sound (R66). -/
theorem QueueSound.withdraw {s t : State} (h : QueueSound s) (keys : List CueKey)
    (he : t.out.entries = withdrawKeys keys s.out.entries) (hn : t.out.nextOrder = s.out.nextOrder)
    (hb : t.bus = s.bus) (hc : t.config = s.config) (hr : t.running = s.running) : QueueSound t := by
  have hk := State.takesRequests_congr hb hr
  refine h.filterMap _ ?_ he hn ?_ ?_ ?_
  · intro e hm e' hg
    rw [hc]
    have hs := h.entry e hm
    split at hg
    · rename_i w hw
      split at hg
      · split at hg
        · rename_i hi
          cases hg
          obtain ⟨h1, h2, h3, h4, h5, h6⟩ := hs
          exact ⟨⟨rfl, rfl, rfl, rfl⟩, h1, h2, h3, h4, fun _ => ⟨hi, h3.1 (by rw [hw]; rfl)⟩, h6⟩
        · cases hg
      · cases hg; exact ⟨⟨rfl, rfl, rfl, rfl⟩, hs⟩
    · cases hg; exact ⟨⟨rfl, rfl, rfl, rfl⟩, hs⟩
  · intro h0; rw [hk] at h0; rw [he, h.empty h0]; rfl
  · rw [he, hb, ← h.attempt]
    unfold withdrawKeys
    induction s.out.entries with
    | nil => rfl
    | cons x xs ih =>
      simp only [List.filterMap_cons]
      cases hw : x.wave with
      | none => cases hx : x.inFlight <;> simp [hx] <;> simpa using ih
      | some w =>
        cases hkk : keys.contains w.key <;> cases hx : x.inFlight <;> simp_all
  · intro h0; rw [hb] at h0; rw [hk]; exact h.speaking h0

/-- A change of other fields keeps the queue sound. -/
theorem QueueSound.same {s t : State} (h : QueueSound s) (ho : t.out = s.out) (hb : t.bus = s.bus)
    (hc : t.config = s.config) (hn : t.nodeState = s.nodeState) : QueueSound t :=
  h.of_frame ho hb hc (State.running_congr hn)

/-! ## Layers and cues -/

theorem QueueSound.setLayers {s : State} (h : QueueSound s) (ls : List Layer) : QueueSound (s.setLayers ls) :=
  h.same rfl rfl rfl rfl

theorem QueueSound.requestHandoff {s : State} (h : QueueSound s) (l : Layer) : QueueSound (s.requestHandoff l) := by
  unfold State.requestHandoff; split
  · exact h.handoff _ _
  · exact h

theorem QueueSound.checkDue {s : State} (h : QueueSound s) (k : CueKey) : QueueSound (s.checkDue k) := by
  unfold State.checkDue State.giveHandoff; (repeat' split)
  · exact (h.setLayers _).requestHandoff _
  all_goals exact h

theorem QueueSound.placeNew {s : State} (h : QueueSound s) (l : Layer) : QueueSound (s.placeNew l) :=
  (h.setLayers _).checkDue _

theorem QueueSound.losersHandoff {s : State} (h : QueueSound s) (l : Layer) : QueueSound (s.losersHandoff l) := by
  unfold State.losersHandoff; split
  · exact h
  · exact h.requestHandoff l

theorem QueueSound.insertLayer {s : State} (h : QueueSound s) (l : Layer) : QueueSound (s.insertLayer l) := by
  unfold State.insertLayer State.insertFull; (repeat' split)
  · exact h.placeNew l
  · exact (((h.setLayers _).raise _).losersHandoff _).placeNew l
  · exact (h.raise _).losersHandoff l
  · exact h.placeNew l

theorem QueueSound.startCue {s : State} (h : QueueSound s) (c : CueRecord) : QueueSound (s.startCue c) :=
  QueueSound.insertLayer (h.same (t := { s with
    cues := removeCue c.key s.cues
    stack := { s.stack with nextStart := s.stack.nextStart + 1 } }) rfl rfl rfl rfl) _

theorem QueueSound.enterDelaying {s : State} (h : QueueSound s) (c : CueRecord) : QueueSound (s.enterDelaying c) := by
  unfold State.enterDelaying; split
  · exact h.startCue _
  · exact h.same rfl rfl rfl rfl

theorem QueueSound.arm {s : State} (h : QueueSound s) (c : CueRecord) : QueueSound (s.arm c) := by
  unfold State.arm; dsimp only; split
  · exact QueueSound.enterDelaying (by exact h.same rfl rfl rfl rfl) _
  · exact h.same rfl rfl rfl rfl

theorem QueueSound.arrive {s : State} (h : QueueSound s) (c : CueRecord) (z : ZoneNo) : QueueSound (s.arrive c z) := by
  unfold State.arrive; dsimp only; split
  · exact QueueSound.enterDelaying (by exact h.same rfl rfl rfl rfl) _
  · exact h.same rfl rfl rfl rfl

theorem QueueSound.callCue {s : State} (h : QueueSound s) (k : CueKey) (r : BitVec 3) (sh : Shape) (d : Byte) :
    QueueSound (s.callCue k r sh d) := by
  unfold State.callCue State.recall State.admitCall State.armNew; (repeat' split)
  · exact h.same rfl rfl rfl rfl
  · exact h.arm _
  · exact QueueSound.arm (by exact h.same rfl rfl rfl rfl) _
  · have h1 : QueueSound ({ s with cues := s.cues.tail }.raise .cueDisplaced) :=
      QueueSound.raise (by exact h.same rfl rfl rfl rfl) _
    exact QueueSound.arm (by exact h1.same rfl rfl rfl rfl) _
  · exact h.raise _

theorem QueueSound.settleCall {s : State} (h : QueueSound s) (k : CueKey) (r : BitVec 3) (sh : Shape) (d : Byte) :
    QueueSound (s.settleCall k r sh d) := by
  unfold State.settleCall State.restyle; (repeat' split)
  · exact h
  · exact (h.setLayers _).callCue _ _ _ _
  · exact (h.setLayers _).checkDue _
  · exact h.callCue _ _ _ _

theorem QueueSound.settleHandoff {s : State} (h : QueueSound s) (z : ZoneNo) (k : CueKey) (r : BitVec 3) :
    QueueSound (s.settleHandoff z k r) := by
  unfold State.settleHandoff; (repeat' split)
  · exact h
  · exact h.arrive _ _
  all_goals exact h

theorem QueueSound.signalAbsence {s : State} (h : QueueSound s) (z : ZoneNo) : QueueSound (s.signalAbsence z) := by
  unfold State.signalAbsence
  generalize s.cues.map CueRecord.key = ks
  induction ks generalizing s with
  | nil => exact h
  | cons k ks ih =>
    refine ih ?_
    unfold State.signalCue; (repeat' split)
    · exact h.arrive _ _
    all_goals exact h

/-! ## Supply, roster and bus port -/

theorem QueueSound.moveSupply {s : State} (h : QueueSound s) (st : SupplyState) : QueueSound (s.moveSupply st) := by
  unfold State.moveSupply State.handOnCap; split
  · exact h
  · have h1 : QueueSound ({ s with supply := s.supply.enter st s.config.sagCap s.showClock }.raiseIf
        (decide (st = SupplyState.deep)) Notice.supplyDeep) := QueueSound.raiseIf (by exact h.same rfl rfl rfl rfl) _ _
    dsimp only; split
    · exact h1
    · exact QueueSound.report (by exact h1.same rfl rfl rfl rfl) _ (by decide)

theorem QueueSound.takeBand {s : State} (h : QueueSound s) (b : Band) : QueueSound (s.takeBand b) :=
  QueueSound.moveSupply (h.same (t := { s with supply := { s.supply with band := b } }) rfl rfl rfl rfl) _

theorem QueueSound.toSpeaking {s : State} (h : QueueSound s) (hl : s.bus.standing = .listenOnly) :
    QueueSound s.toSpeaking := by
  refine QueueSound.report ?_ _ (by decide)
  have hk : s.takesRequests = false := by simp [State.takesRequests, hl]
  have ha : s.bus.inAttempt = false := by
    by_contra hne
    exact absurd ((h.speaking (by simpa using hne)).symm.trans hk) (by decide)
  exact QueueSound.of_empty (h.empty hk) ha

theorem QueueSound.activated (s : State) : QueueSound s.activated :=
  QueueSound.of_empty rfl rfl

theorem QueueSound.enterActive (s : State) (v : Millivolts) : QueueSound (s.enterActive v) :=
  ((QueueSound.activated s).report _ (by decide)).takeBand _

theorem QueueSound.countFrame {s : State} (h : QueueSound s) (f : Bool) : QueueSound (s.countFrame f) := by
  unfold State.countFrame State.countFault BusPort.countClean; (repeat' split)
  · exact h.of_eq rfl rfl rfl rfl
  · exact QueueSound.raise (by exact h.of_eq rfl rfl rfl rfl) _
  all_goals exact h.of_eq rfl rfl rfl rfl

theorem QueueSound.endFrame {s : State} (h : QueueSound s) (hg : s.receives = true) (v : Vote) (f : Bool) :
    QueueSound (s.endFrame v f) := by
  unfold State.endFrame
  refine QueueSound.countFrame ?_ _
  refine h.of_eq rfl rfl rfl ?_
  simp only [State.receives, Bool.and_eq_true, decide_eq_true_eq] at hg
  simp [BusPort.inAttempt, hg.2]

theorem QueueSound.drainCheck {s : State} (h : QueueSound s) : QueueSound s.drainCheck :=
  h.of_frame (by simp) (by simp) (by simp) (by simp)

theorem QueueSound.accept {s : State} (h : QueueSound s) (hd : BitVec 12) (b : List Byte) :
    QueueSound (s.accept hd b) := by
  unfold State.accept State.deliverFrame State.deliver; (repeat' split)
  all_goals first
    | exact h
    | exact h.raise _
    | exact h.same rfl rfl rfl rfl

theorem QueueSound.handOn {s : State} (h : QueueSound s) (hd : BitVec 12) (b : List Byte) :
    QueueSound (s.handOn hd b) := by
  refine QueueSound.accept ?_ _ _
  exact (h.raiseIf (decide (headerOrigin hd = s.config.zone)) .twinZone).same (by simp) (by simp) (by simp) (by simp)

theorem QueueSound.complete {s : State} (h : QueueSound s) {f : State → State}
    (hf : ∀ t, QueueSound t → QueueSound (f t)) : QueueSound (s.complete f) :=
  (hf { s with intake := { s.intake with slot := none } } (h.same rfl rfl rfl rfl)).same rfl rfl rfl rfl

end Sys2Proof.Machine
end

