-- ==== Sys2Proof/Laws/Roster.lean ====
section
/-! SUPPORT. The roster's and the intake's operations keep `RosterSound`. -/

namespace Sys2Proof.Machine

theorem RosterSound.of_eq {s t : State} (h : RosterSound s) (hi : t.intake = s.intake)
    (he : t.roster.entries = s.roster.entries) (hp : t.roster.presenceTimer.isSome = s.roster.presenceTimer.isSome)
    (hc : t.config = s.config) (hr : t.running = s.running) : RosterSound t := by
  obtain ⟨h1, h2, h3, h4, h5, h6, h7, h8⟩ := h
  have ha : t.absenceTime = s.absenceTime := by simp [State.absenceTime, hc]
  refine ⟨by rw [hi]; exact h1, by rw [hi]; exact h2, by rw [hr, hi]; exact h3, by rw [hi, hc]; exact h4,
    by rw [hr, he]; exact h5, by rw [hr, hc, he]; exact h6, by rw [ha, he]; exact h7, by rw [hp, hr]; exact h8⟩

theorem RosterSound.of_frame {s t : State} (h : RosterSound s) (hi : t.intake = s.intake)
    (he : t.roster = s.roster) (hc : t.config = s.config) (hr : t.running = s.running) : RosterSound t :=
  h.of_eq hi (by rw [he]) (by rw [he]) hc hr

/-- The intake alone changes: its limits still hold and no roster frame is added. -/
theorem RosterSound.intake {s t : State} (h : RosterSound s) (hf : t.intake.fifo.length ≤ 4)
    (ht : t.intake.slot = none → t.intake.fifo = []) (hi : t.intake.inbox = s.intake.inbox) (he : t.roster = s.roster)
    (hc : t.config = s.config) (hr : t.running = true) (hs : s.running = true) : RosterSound t := by
  obtain ⟨h1, h2, h3, h4, h5, h6, h7, h8⟩ := h
  have ha : t.absenceTime = s.absenceTime := by simp [State.absenceTime, hc]
  have hrs : t.running = s.running := hr.trans hs.symm
  refine ⟨hf, ht, fun h0 => ?_, by rw [hi, hc]; exact h4, by rw [hrs, he]; exact h5, by rw [hrs, hc, he]; exact h6,
    by rw [ha, he]; exact h7, by rw [he, hrs]; exact h8⟩
  rw [hr] at h0; cases h0

theorem take_fifo (i : Intake) (now : Clock) (h : i.fifo.length ≤ 4) :
    (i.take now).fifo.length ≤ 4 ∧ ((i.take now).slot = none → (i.take now).fifo = []) ∧ (i.take now).inbox = i.inbox := by
  unfold Intake.take; split
  · rename_i e rest _ he; rw [he] at h; refine ⟨?_, by simp, rfl⟩
    simp only [List.length_cons] at h; dsimp only; omega
  · rename_i hne
    refine ⟨h, fun hs => ?_, rfl⟩
    cases hf : i.fifo with
    | nil => rfl
    | cons e r => exact absurd hf (by intro h0; exact hne e r hs h0)

/-- The entries of `t` are those of `s` but for one, which is absent or just heard from. -/
theorem RosterSound.setPeer {s t : State} (h : RosterSound s) (i : Fin 31) (p : Option Peer)
    (hi : t.intake = s.intake) (he : t.roster.entries = s.roster.entries.set i p)
    (hp : t.roster.presenceTimer = s.roster.presenceTimer) (hc : t.config = s.config) (hr : t.running = true)
    (hs : s.running = true) (hown : p.isSome = true → i.val ≠ s.config.zone.toNat)
    (hd : ∀ q, p = some q → q.absence = later q.lastHeard s.absenceTime) : RosterSound t := by
  obtain ⟨h1, h2, h3, h4, h5, h6, h7, h8⟩ := h
  have ha : t.absenceTime = s.absenceTime := by simp [State.absenceTime, hc]
  have hget : ∀ j : Fin 31, t.roster.entries[j] = if i = j then p else s.roster.entries[j] := by
    intro j
    rw [he]
    simp only [Fin.getElem_fin, Vector.getElem_set]
    by_cases hij : i = j
    · simp [hij]
    · have : i.val ≠ j.val := fun h0 => hij (Fin.ext h0)
      simp [hij, this]
  refine ⟨by rwa [hi], by rwa [hi], fun h0 => ?_, by rw [hi, hc]; exact h4, fun h0 => ?_, ?_, ?_, ?_⟩
  · rw [hr] at h0; cases h0
  · rw [hr] at h0; cases h0
  · intro _ j hj
    rw [hc] at hj
    rw [hget]; split
    · rename_i hij
      cases p with
      | none => rfl
      | some q => exact absurd (hij ▸ hj) (hown rfl)
    · exact h6 hs j hj
  · intro j q hq
    rw [hget] at hq
    rw [ha]
    split at hq
    · exact hd q hq
    · exact h7 j q hq
  · rw [hp, h8, hr, hs]

theorem RosterSound.powerOn (r : Reader) (q : List Instr) : RosterSound (State.powerOn r q) := by
  constructor <;> simp [State.powerOn, Intake.empty, State.running, Roster.powerOn]

theorem RosterSound.activated (s : State) : RosterSound s.activated := by
  constructor <;> simp [State.activated, Intake.empty, State.running, Roster.powerOn]

theorem RosterSound.enterActive (s : State) (v : Millivolts) : RosterSound (s.enterActive v) :=
  (RosterSound.activated s).of_frame (by simp [State.enterActive]) (by simp [State.enterActive])
    (by simp [State.enterActive]) (State.running_congr (by simp [State.enterActive]))

/-- The completion of a handling whose effect leaves intake, roster and configuration alone (R50). -/
theorem RosterSound.complete {s : State} (h : RosterSound s) (hr : s.running = true) {f : State → State}
    (hi : ∀ u, (f u).intake = u.intake) (he : ∀ u, (f u).roster = u.roster) (hc : ∀ u, (f u).config = u.config)
    (hrf : ∀ u, (f u).running = u.running) : RosterSound (s.complete f) := by
  obtain ⟨g1, g2, g3⟩ := take_fifo { s.intake with slot := none } (f { s with intake := { s.intake with slot := none } }).showClock h.fifo
  have hint : (s.complete f).intake = Intake.take { s.intake with slot := none }
      (f { s with intake := { s.intake with slot := none } }).showClock := by
    rw [State.complete_slot, hi]
  refine h.intake ?_ ?_ ?_ ?_ ?_ ?_ hr
  · rw [hint]; exact g1
  · rw [hint]; exact g2
  · rw [hint]; exact g3
  · rw [(State.complete_frame s f).2.2.2.2.2.2.1, he]
  · rw [(State.complete_frame s f).2.1, hc]
  · rw [State.complete_running, hrf]; exact hr

theorem zoneIndex_val {z : ZoneNo} {i : Fin 31} (h : zoneIndex z = some i) : i.val = z.toNat := by
  unfold zoneIndex at h; split at h
  · cases h; rfl
  · cases h

theorem rosterFrame_zone {c : NodeConfig} {k : FrameKind} {o : ZoneNo} {b : List Byte} {f : RosterFrame}
    (h : rosterFrame c k o b = some f) : f.zone.val ≠ c.zone.toNat := by
  unfold rosterFrame at h; split at h
  · cases h
  rename_i hne
  have ho : ∀ i : Fin 31, zoneIndex o = some i → i.val ≠ c.zone.toNat := fun i hi h0 =>
    hne (BitVec.eq_of_toNat_eq ((zoneIndex_val hi).symm.trans h0))
  split at h
  · obtain ⟨i, hi, rfl⟩ := Option.map_eq_some_iff.1 h; exact ho i hi
  · obtain ⟨i, hi, rfl⟩ := Option.map_eq_some_iff.1 h; exact ho i hi
  all_goals cases h

theorem RosterSound.refresh {s : State} (h : RosterSound s) (hr : s.running = true) (o : ZoneNo) :
    RosterSound (s.refresh o) := by
  unfold State.refresh; split
  · rename_i i _
    refine h.setPeer i _ rfl rfl rfl rfl hr hr ?_ ?_
    · intro hs h0
      rw [h.own hr i h0] at hs; cases hs
    · intro q hq
      obtain ⟨p, hp, rfl⟩ := Option.map_eq_some_iff.1 hq
      rfl
  · exact h

theorem withInbox_running (s : State) (fs : List RosterFrame) : (s.withInbox fs).running = s.running := rfl

theorem RosterSound.accept {s : State} (h : RosterSound s) (hr : s.running = true) (hd : BitVec 12) (b : List Byte) :
    RosterSound (s.accept hd b) := by
  unfold State.accept; split
  · exact h
  · exact h.of_frame rfl rfl rfl rfl
  unfold State.deliverFrame; split
  · unfold State.deliver; split
    · rename_i k _ _ o _ hl
      obtain ⟨g1, g2, g3⟩ := take_fifo { s.intake with fifo := s.intake.fifo ++ [⟨headerOrigin hd, o⟩] } s.showClock
        (by simp; omega)
      exact h.intake g1 g2 g3 rfl rfl hr hr
    · exact h.of_frame rfl rfl rfl rfl
  · split
    · rename_i f hf
      obtain ⟨h1, h2, h3, h4, h5, h6, h7, h8⟩ := h
      refine ⟨h1, h2, fun h0 => ?_, ?_, fun h0 => ?_, h6, h7, h8⟩
      · exact absurd ((withInbox_running s _).symm.trans h0) (by rw [hr]; decide)
      · intro g hg
        rcases List.mem_append.1 hg with hg | hg
        · exact h4 g hg
        · rw [List.mem_singleton] at hg; subst hg; exact rosterFrame_zone hf
      · exact absurd ((withInbox_running s _).symm.trans h0) (by rw [hr]; decide)
    · exact h

/-- A roster frame leaves the inbox. -/
theorem RosterSound.withInbox {s : State} (h : RosterSound s) (hr : s.running = true) {f : RosterFrame}
    {rest : List RosterFrame} (hi : s.intake.inbox = f :: rest) :
    RosterSound (s.withInbox rest) ∧ f.zone.val ≠ s.config.zone.toNat := by
  obtain ⟨h1, h2, h3, h4, h5, h6, h7, h8⟩ := h
  rw [hi] at h4
  refine ⟨⟨h1, h2, fun h0 => ?_, ?_, h5, h6, h7, h8⟩, h4 f List.mem_cons_self⟩
  · exact absurd ((withInbox_running s _).symm.trans h0) (by rw [hr]; decide)
  · intro g hg; exact h4 g (List.mem_cons_of_mem _ hg)

end Sys2Proof.Machine
end

