-- ==== Sys2Proof/Tests/Slice0.lean ====
section
/-! SUPPORT. Tests: the well-formedness checks, one step on small states, and for every statement of Certificates/Slice0
a state that meets its hypotheses. -/

-- One theorem after the other: many kernel evaluations at once ask for too many threads.
set_option Elab.async false

namespace Sys2Proof.Tests

open Sys2Proof Sys2Proof.Machine

/-! ## Fixtures -/

/-- A record for zone 4: V_t 10.0 V, P 400 ms, sag cap 64, F 96, σ 16, a warm theme at level 200, dimmer 200, a dark fade
of 500 ms; S0 STREAM with 30 pixels, S2 CONFIRMED with 40, S3 PWM with 2; route 0 as head, routes 1 and 2 behind zone 3. -/
def record : List Byte :=
  [0x4C, 0x04, 0x02, 0x08, 0x40, 0x60, 0x10, 0xFF, 0xB4, 0x3C, 0xC8, 0xC8, 0x32, 0x40, 0x1E, 0x00] ++
  [0x00, 0x80, 0x28, 0xC0, 0x02, 0x01, 0x00, 0x00, 0x1E, 0x00, 0x00, 0x00, 0x00, 0x00, 0x00, 0x00] ++
  [0x00, 0x00, 0xA0, 0x00, 0x00, 0x00, 0xA1, 0x03, 0x00, 0x32, 0x81, 0x03, 0x00, 0x32, 0x00, 0x00] ++
  List.replicate 46 0 ++ [0x85, 0xFB]

/-- A warm colour, the theme of `record`. -/
def warm : Colour := ⟨255, 180, 60⟩

/-- A node in ACTIVE with `record` in use, idle line, empty queues and its base at the theme. -/
def active : State := { State.reset with
  nodeState := .active
  config := configOf record
  bus := { BusPort.powerOn with line := .outside .rise 0 }
  roster := { Roster.powerOn with presenceTimer := some 400 }
  level := ⟨255, 200, 200, none, none⟩
  base := ⟨⟨warm, 200⟩, ⟨warm, 200⟩, none⟩
  ports := Vector.ofFn fun p => Port.start (configOf record).ports[p] 0 }

/-- What a command leaves, or the reset state where it does not go on. -/
def after (c : Instr) (s : State) : State :=
  match exec c s with
  | .next t => t
  | .fault _ | .refused _ => State.reset

/-- A node in DRAINING. -/
def draining (phase : DrainPhase) : State := { active with
  nodeState := .draining phase
  drainDeadline := if phase = .proper then some 0 else none }

/-- A queue entry of zone 4. -/
def entry (k : SendKind) (order : Nat) (inFlight : Bool) : SendEntry where
  kind := k
  header := sendHeader k 4
  order := order
  budget := k.budget
  wave := if k = .handoff then some ⟨⟨3, 7⟩, 1⟩ else none
  inFlight := inFlight
  renew := false
  withdrawn := false
  clearMarks := GroupFlags.clear

/-- The node with these entries in its queue. -/
def queued (es : List SendEntry) : State := { active with out := ⟨es, 9⟩ }

/-- The node with its first entry in flight as frame `f`. -/
def sending (f : Frame) (es : List SendEntry) : State :=
  { queued es with bus := { active.bus with line := .sending f } }

/-- A one-byte frame. -/
def capFrame : Frame := Frame.make (sendHeader .cap 4) [255]

/-- The node following a frame. -/
def receiving : State := { active with bus := { active.bus with line := .receiving } }

/-- The bits of a frame of another station on a clean line. -/
def heard (h : BitVec 12) (body : List Byte) : List LineBit := cleanLine (Frame.make h body).bits

/-- The node with an order in its handling slot. -/
def handling (origin : ZoneNo) (o : Order) : State :=
  { active with intake := { active.intake with slot := some ⟨⟨origin, o⟩, ⟨0, 400⟩⟩ } }

/-- A key, and a shape of a plain layer. -/
def key : CueKey := ⟨3, 7⟩
def shape : Shape := ⟨.hold, false, false, .keep, .replace, 2, ⟨255, 0, 0⟩, Colour.black, 100, 3, 128⟩

/-- A running layer of `key` one phase before its due point. -/
def layer : Layer := ⟨key, 1, false, shape, 49, 1, 255, .running, none, false, 0⟩

/-- A record of `key` that waits for zone 3. -/
def cue : CueRecord := ⟨key, 1, shape, 0, .awaitHandoff, [], some 500, none⟩

/-- The node with these layers, and with these records. -/
def lit (ls : List Layer) : State := { active with stack := ⟨ls, 9⟩ }
def waiting (cs : List CueRecord) : State := { active with cues := cs }

/-- The node with port `p` as given. -/
def withPort (p : Fin 4) (x : Port) : State := active.setPort p x

/-- A port of `active`. -/
def port (p : Fin 4) : Port := active.ports[p]

/-! ## Well-formed commands: each check refuses an ill-formed term -/

theorem test_wf_config_read_failure :
    (Instr.configReadFailure 0xFF).wf = true ∧ (Instr.configReadFailure 0x4C).wf = false := by decide +kernel

theorem test_wf_config_read_done :
    (Instr.configReadDone record 12000).wf = true ∧ (Instr.configReadDone (record.take 95) 12000).wf = false ∧
      (Instr.configReadDone (record.set 0 0x4D) 12000).wf = false := by decide +kernel

theorem test_wf_attempt_start :
    (Instr.attemptStart ⟨13000, 1000⟩).wf = true ∧ (Instr.attemptStart ⟨12999, 1000⟩).wf = false := by decide +kernel

theorem test_wf_readback_fault :
    (Instr.readbackFault 144 ⟨4000, 1000, true⟩).wf = true ∧ (Instr.readbackFault 145 ⟨4000, 1000, true⟩).wf = false ∧
      (Instr.readbackFault 144 ⟨4000, 3000, true⟩).wf = false := by decide +kernel

/-- Bits that no line can show: an edge before the pulse before it has ended, an edge after the frame was found cut
short, a pulse that is a stuck line, and a sample that is not the line at its mid-bit. -/
theorem test_wf_line :
    (Instr.frameVoided ((heard 0x161 [64]).set 20 ⟨900, 1000, true⟩)).wf = false ∧
      (Instr.frameVoided ((heard 0x161 [64]).set 20 ⟨6001, 1000, true⟩)).wf = false ∧
      (Instr.frameVoided ((heard 0x161 [64]).set 40 ⟨4000, 32001, false⟩)).wf = false ∧
      (Instr.frameVoided ((heard 0x161 [64]).set 20 ⟨4000, 1000, false⟩)).wf = false := by decide +kernel

theorem test_wf_line_stuck :
    (Instr.lineStuckCondition 32001).wf = true ∧ (Instr.lineStuckCondition 32000).wf = false := by decide +kernel

theorem test_wf_silent_recovery :
    (Instr.silentRecovery 256000).wf = true ∧ (Instr.silentRecovery 255999).wf = false := by decide +kernel

theorem test_wf_frame_taken :
    (Instr.frameTaken (heard 0x161 [64])).wf = true ∧ (Instr.frameTaken ((heard 0x161 [64]).take 40)).wf = false ∧
      (Instr.frameTaken ((heard 0x161 [64]).set 20 ⟨4600, 1000, true⟩)).wf = false := by decide +kernel

theorem test_wf_frame_voided :
    (Instr.frameVoided (heard 0x161 [64])).wf = true ∧ (Instr.frameVoided ((heard 0x161 [64]).take 40)).wf = false := by
  decide +kernel

theorem test_wf_frame_discarded :
    (Instr.frameDiscarded ((heard 0x161 [64]).set 20 ⟨4600, 1000, true⟩)).wf = true ∧
      (Instr.frameDiscarded (heard 0x161 [64])).wf = false ∧
      (Instr.frameDiscarded ((heard 0x161 [64]).take 40)).wf = false := by decide +kernel

theorem test_wf_frame_cut_short :
    (Instr.frameCutShort ((heard 0x161 [64]).take 41)).wf = true ∧ (Instr.frameCutShort []).wf = false ∧
      (Instr.frameCutShort (heard 0x161 [64] ++ heard 0x161 [64])).wf = false ∧
      (Instr.frameCutShort ((heard 0x161 [64]).take 16 ++ [⟨4000, 6001, false⟩])).wf = false := by decide +kernel

theorem test_wf_keys :
    (Instr.fallbackExpiry ⟨30, 1⟩).wf = true ∧ (Instr.fallbackExpiry ⟨31, 1⟩).wf = false ∧
      (Instr.fallbackExpiry ⟨30, 0⟩).wf = false ∧ (Instr.delayExpiry ⟨31, 1⟩).wf = false ∧
      (Instr.delayExpiry ⟨30, 0⟩).wf = false ∧ (Instr.layerPhaseAdvance ⟨31, 1⟩).wf = false ∧
      (Instr.layerPhaseAdvance ⟨30, 0⟩).wf = false ∧ (Instr.fadeStep ⟨31, 1⟩).wf = false ∧
      (Instr.fadeStep ⟨30, 0⟩).wf = false := by decide +kernel

theorem test_wf_edges :
    (Instr.startBit ⟨13000, 1000⟩).wf = true ∧ (Instr.startBit ⟨12999, 1000⟩).wf = false ∧
      (Instr.lineNoise ⟨15999, 1000⟩).wf = true ∧ (Instr.lineNoise ⟨16000, 1000⟩).wf = false ∧
      (Instr.lineNoise ⟨999, 1000⟩).wf = false := by decide +kernel

/-! ## One step on small states -/

theorem test_power_on_start : (after (.powerOnStart .resetAsserted) active).nodeState = .starting .resetHeld ∧
    after (.powerOnStart .powerUp) active = State.reset := by decide +kernel

theorem test_reset_release : (after .resetRelease (after (.powerOnStart .resetAsserted) active)) = State.reset := by
  decide +kernel

theorem test_config_read_failure :
    (after (.configReadFailure 0xFF) { active with nodeState := .starting (.reading 2) }).nodeState = .halted := by
  decide +kernel

theorem test_record_check : crcBytes (record.take 94) = 0x85FB := by
  have h : record.take 94 = record.take 32 ++ (record.drop 32).take 32 ++ (record.drop 64).take 30 := by decide +kernel
  have h1 : ((record.take 32).flatMap msbFirst).foldl crcStep 0xFFFF = 15172#16 := by decide +kernel
  have h2 : (((record.drop 32).take 32).flatMap msbFirst).foldl crcStep 15172#16 = 24332#16 := by decide +kernel
  have h3 : (((record.drop 64).take 30).flatMap msbFirst).foldl crcStep 24332#16 = 0x85FB := by decide +kernel
  rw [h, crcBytes, crcBits, List.flatMap_append, List.flatMap_append, List.foldl_append, List.foldl_append, h1, h2, h3]

theorem test_record_good : recordRead record = true ∧ recordGood record = true := by
  refine ⟨by decide +kernel, ?_⟩
  rw [recordGood, recordCheck, test_record_check]
  decide +kernel

theorem test_config_read_done :
    let t := after (.configReadDone record 12600) State.reset
    t.nodeState = .active ∧ t.level = ⟨255, 200, 200, none, none⟩ ∧ t.roster.presenceTimer = some 400 ∧
      t.out.entries.map SendEntry.kind = [.presence] ∧ t.ports.toList.map Port.state = [.idle, .off, .idle, .idle] := by
  have h : after (.configReadDone record 12600) State.reset =
      { State.reset with config := configOf record }.enterActive 12600 := by
    simp [after, exec, execConfigReadDone, configReadDone, State.reset, State.powerOn, test_record_good]
  rw [h]
  decide +kernel

/-- `record` with its check broken. -/
def badRecord : List Byte := record.set 95 0

theorem test_bad_record : recordRead badRecord = true ∧ crcBytes (badRecord.take 94) ≠ 0x8500 ∧
    recordGood badRecord = false := by
  have h : badRecord.take 94 = record.take 94 := by decide +kernel
  refine ⟨by decide +kernel, by rw [h, test_record_check]; decide, ?_⟩
  rw [recordGood, recordCheck, h, test_record_check]
  decide +kernel

theorem test_config_read_done_bad_check :
    (after (.configReadDone badRecord 12600) State.reset).nodeState = .halted := by
  simp [after, exec, execConfigReadDone, configReadDone, State.reset, State.powerOn, test_bad_record]

theorem test_waking : (after .wakingEdge { active with nodeState := .asleep }).nodeState = .waking ∧
    (after (.wakingEnd 6900) { active with nodeState := .waking }).out.entries.map SendEntry.kind = [.cap, .presence] := by
  decide +kernel

theorem test_attempt_start :
    (after (.attemptStart ⟨12000, 0⟩) (queued [entry .cap 0 false])).bus.line = .sending capFrame := by decide +kernel

theorem test_attempt_sent : (after .attemptSent (sending capFrame [entry .cap 0 true])).out.entries = [] := by
  decide +kernel

theorem test_attempt_voided :
    let t := after .attemptVoided (sending capFrame [entry .cap 0 true])
    t.out.entries.map SendEntry.budget = [2] ∧ t.bus.voidRun = 1 := by decide +kernel

theorem test_readback_fault :
    let t := after (.readbackFault 20 ⟨4000, 2000, true⟩) (sending capFrame [entry .cap 0 true])
    t.status.notices = 0x400 ∧ t.status.groupNew = ⟨false, true, false⟩ ∧ t.bus.voidRun = 1 := by decide +kernel

theorem test_contention_lost :
    let t := after (.contentionLost 3) (sending capFrame [entry .cap 0 true])
    t.bus.line = .receiving ∧ t.out.entries = [entry .cap 0 false] := by decide +kernel

theorem test_line_stuck :
    let t := after (.lineStuckCondition 32001) (queued [entry .cap 0 false])
    t.bus.standing = .silent ∧ t.out.entries = [] ∧ t.status.notices = 0x140 := by decide +kernel

theorem test_silent_recovery :
    let s := { active with bus := { active.bus with standing := .silent } }
    (after (.silentRecovery 256000) s).bus.quietDeadline = some 200 := by decide +kernel

/-- A THEME of zone 1 taken by an idle node goes straight to the handling slot, its completion 400 µs on. -/
theorem test_frame_taken :
    (after (.frameTaken (heard 0xA1 [1, 2, 3, 4, 5])) receiving).intake.slot =
      some ⟨⟨1, .theme ⟨1, 2, 3⟩ 4 5⟩, ⟨0, 400⟩⟩ := by decide +kernel

theorem test_frame_taken_bad_body :
    (after (.frameTaken (heard 0xE1 [0])) receiving).status.notices = 0x2 := by decide +kernel

theorem test_frame_cut_short :
    (after (.frameCutShort ((heard 0x161 [64]).take 41)) receiving).bus.lastVote = .voidPulse ∧
      (after (.frameCutShort ((heard 0x161 [64]).take 16)) receiving).bus.faultRun = 0 := by decide +kernel

/-- An edge 1.5 µs after the one before it is a bit fault and no end of the frame: the dominant line of its pulse is what
the mid-bit before it samples. So is an edge that ends the recessive time after a pulse of 7 µs, and one exactly 6 µs
after the one before it (R3). -/
theorem test_edges_out_of_window :
    let early := ((heard 0x161 [64]).set 39 ⟨4000, 1000, false⟩).set 40 ⟨1500, 3000, false⟩
    let late := ((heard 0x161 [64]).set 39 ⟨4000, 7000, false⟩).set 40 ⟨8000, 3000, false⟩
    let atCut := (heard 0x161 [64]).set 20 ⟨6000, 1000, true⟩
    (rxComplete early = true ∧ rxBitFault early = true) ∧
      (rxComplete late = true ∧ rxBitFault late = true) ∧ (rxComplete atCut = true ∧ rxBitFault atCut = true) := by
  decide +kernel

/-- After a frame the idle count runs from 4 µs after the falling edge of its last bit, after noise from the rising edge
(R4). -/
theorem test_idle_count :
    let s := after (.frameVoided (heard 0x161 [64])) { receiving with out := ⟨[entry .cap 0 false], 9⟩ }
    let t := after (.lineNoise ⟨15999, 1000⟩) s
    s.bus.line = .outside .bitEnd 0 ∧ after (.attemptStart ⟨15999, 1000⟩) s = s ∧
      after (.startBit ⟨15999, 1000⟩) s = s ∧ (after (.startBit ⟨16000, 1000⟩) s).bus.line = .receiving ∧
      (after (.attemptStart ⟨16000, 1000⟩) s).bus.inAttempt = true ∧ t.bus.line = .outside .rise 0 ∧
      (after (.startBit ⟨13000, 1000⟩) t).bus.line = .receiving := by decide +kernel

/-- Past a pulse of 7 µs a frame goes on until the line is idle, 12 µs after the end of the pulse; the next edge is then a
start bit and no late edge (R3, R4). -/
theorem test_frame_left_for_idle :
    let s := { receiving with out := ⟨[entry .cap 0 false], 9⟩ }
    let bits := fun t => ((heard 0x161 [64]).set 39 ⟨4000, 7000, false⟩).set 40 ⟨t, 3000, false⟩
    rxComplete (bits 18999) = true ∧ rxComplete (bits 19000) = false ∧ after (.attemptStart ⟨18999, 7000⟩) s = s ∧
      (after (.attemptStart ⟨19000, 7000⟩) s).bus.inAttempt = true ∧
      (after (.startBit ⟨19000, 7000⟩) (sending capFrame [])).bus.line = .sending capFrame ∧
      (after (.startBit ⟨19000, 7000⟩) s).bus.line = .receiving ∧ after (.lineNoise ⟨9000, 7000⟩) s = s := by
  decide +kernel

/-- A sender that a readback fault stopped goes with its frame to the end, with no vote and no count (R8, R11). -/
theorem test_stopped :
    let s := after (.readbackFault 20 ⟨4000, 2000, true⟩) (sending capFrame [entry .cap 0 true])
    let t := after (.frameCutShort ((heard 0x161 [64]).take 21)) s
    s.bus.line = .stopped ∧ t = s.watch (.outside .bitEnd 0) ∧ after (.attemptStart ⟨16000, 3000⟩) s = s ∧
      (after (.attemptStart ⟨16000, 3000⟩) t).bus.inAttempt = true := by decide +kernel

theorem test_frame_voided :
    (after (.frameVoided ((heard 0x161 [64]).set 20 ⟨4600, 1000, true⟩)) receiving).bus.faultRun = 1 := by
  decide +kernel

theorem test_cap_delivered :
    let s := { active with intake := { active.intake with inbox := [.cap 9 100] } }
    (after .capDelivered s).level = ⟨100, 200, 100, none, none⟩ := by decide +kernel

/-- The dimmer ramp of R80: from 200 to 50 in five steps; the second gives 140. -/
theorem test_dimmer_ramp :
    let s := { active with level := ⟨255, 170, 170, none, some ⟨200, 50, 5, 1, 0⟩⟩ }
    (after .dimmerRampStep s).level = ⟨255, 140, 140, none, some ⟨200, 50, 5, 2, 10⟩⟩ := by decide +kernel

/-- The last slew step from 96 with σ = 16 gives 255 (R79). -/
theorem test_slew_step :
    let s := { active with level := ⟨240, 255, 240, some 0, none⟩ }
    (after .slewStep s).level = ⟨255, 255, 255, none, none⟩ := by decide +kernel

theorem test_band_event :
    let t := after (.bandEvent 6999) active
    t.supply.state = .deep ∧ t.level.a = 0 ∧ t.out.entries.map SendEntry.kind = [.cap] ∧
      t.status.notices = 0x2000 := by decide +kernel

theorem test_call_handled :
    (after .callHandled (handling 3 (.call 7 1 shape 0))).stack.layers.map Layer.key = [key] ∧
      (after .callHandled (handling 3 (.call 7 0 shape 5))).cues.map CueRecord.delay = [some 50] := by decide +kernel

theorem test_handoff_handled :
    let s := { handling 3 (.handoff 3 7 1) with cues := [cue] }
    (after .handoffHandled s).stack.layers.map Layer.key = [key] ∧ (after .handoffHandled s).cues = [] := by
  decide +kernel

/-- A layer that reaches its due point on a route that sends handoffs queues its HANDOFF. -/
theorem test_layer_phase_advance :
    let t := after (.layerPhaseAdvance key) (lit [layer])
    t.stack.layers.map (fun l => (l.phase, l.subCount, l.spent)) = [(50, 0, true)] ∧
      t.out.entries.map SendEntry.wave = [some ⟨key, 1⟩] := by decide +kernel

theorem test_cancel_handled :
    let s := { handling 9 (.cancel 31 0 .fadeOut 2) with stack := ⟨[layer], 9⟩ }
    (after .cancelHandled s).stack.layers.map (fun l => (l.state, l.fade, l.spent)) =
      [(.fading, some ⟨255, 2, 0, 10⟩, true)] := by decide +kernel

theorem test_show_tick : (after .showTick { active with showClock := 0xFFFFFFFF }).showClock = 0 := by decide +kernel

theorem test_port_frame_event :
    let t := after (.portFrameEvent 0) { active with showClock := 5 }
    t.ports[0].state = .shifting ∧ t.ports[0].lastSent = some (List.replicate 30 ⟨156, 110, 36⟩) ∧
      t.ports[0].frameDeadline = some 10 ∧ t.ports[0].refreshDeadline = some 55 := by decide +kernel

theorem test_echo_arrival :
    let x := { port 2 with state := .awaitEcho, activity := .echoWait, echoTimeout := some ⟨0, 2000⟩, failureRun := 2 }
    (after (.echoArrival 2 0x5A020000) (withPort 2 x)).ports[2].state = .idle ∧
      (after (.echoArrival 2 0x5A020001) (withPort 2 x)).ports[2].state = .faulted := by decide +kernel

/-- A send of one pixel with send count 0x0102 on S2, bit by bit: red, green, blue and the marker (R162, R169). -/
theorem test_send_bits :
    sendBits .confirmed 2 [⟨0x80, 0x01, 0xF0⟩] 0x0102 =
      [0x80, 0x01, 0xF0, 0x5A, 0x02, 0x01, 0x02].flatMap (msbFirst : Byte → List Bool) := by decide +kernel

/-- The example of R161: a PWM port of 2 pixels drives S3_0 to S3_5 and holds S3_6 to S3_11 low. -/
theorem test_pwm_pins :
    let s := { active with pwm := Vector.replicate 12 7 }
    (List.finRange 12).map (fun k => s.pin (.s3 k)) = List.replicate 6 (.duty 7) ++ List.replicate 6 .low := by
  decide +kernel

/-- A dark frame goes over the data pin of S2 with the marker of the send count as it is, and the pins are low after it
(R173). -/
theorem test_dark_pins :
    let x := { port 2 with state := .dark, sendCount := 5 }.beginDark active.config.ports[2] 0
    let s := withPort 2 x
    let t := after (.darkFrameSent 2) s
    s.pin .s2d = .shifts (List.replicate 960 false ++ msbFirst (0x5A020005 : BitVec 32)) ∧ s.pin .s2c = .clocks ∧
      t.pin .s2d = .low ∧ t.pin .s2c = .low ∧ t.pin .s2e = .low := by decide +kernel

/-- The example of R142: BREATHE at phase 50 of 200. -/
theorem test_breathe :
    { layer with shape := ⟨.breathe, true, false, .keep, .replace, 2, ⟨200, 40, 0⟩, ⟨20, 20, 20⟩, 200, 0, 0⟩
                 phase := 50 }.look 8 3 = some ⟨109, 29, 11⟩ := by decide +kernel

theorem test_sleep_handled :
    (after .sleepHandled (handling 9 (.sleep 3))).nodeState = .draining .dark ∧
      (after .sleepHandled { handling 9 (.sleep 3) with stack := ⟨[layer], 9⟩ }).drainDeadline = some 300 := by
  decide +kernel

theorem test_drain_timer_expiry :
    let s := { draining .proper with stack := ⟨[layer], 9⟩ }
    (after .drainTimerExpiry s).stack.layers.map (fun l => (l.state, l.fade)) =
      [(.fading, some ⟨255, 50, 0, 10⟩)] := by decide +kernel


/-! ## Witnesses: states that meet the hypotheses of the statements -/

theorem test_witness_step_takes_the_front_command :
    ({ active with pending := [.showTick, .attemptSent] } : State).pending = .showTick :: [.attemptSent] ∧
      active.pending = [] := by decide +kernel

theorem test_witness_bus_sound :
    BusSound { active with pending := [.showTick] } ∧
      step { active with pending := [.showTick] } = .next (after .showTick active) := by
  refine ⟨?_, rfl⟩
  constructor <;> decide +kernel

theorem test_witness_queue_sound :
    QueueSound { queued [entry .cap 0 false, entry .presence 1 false] with pending := [.attemptStart ⟨12000, 0⟩] } ∧
      step { queued [entry .cap 0 false, entry .presence 1 false] with pending := [.attemptStart ⟨12000, 0⟩] } =
        .next (after (.attemptStart ⟨12000, 0⟩) (queued [entry .cap 0 false, entry .presence 1 false])) := by
  refine ⟨?_, rfl⟩
  constructor
  · intro e he
    have h : e = entry .cap 0 false ∨ e = entry .presence 1 false := by simpa [queued] using he
    rcases h with rfl | rfl <;> constructor <;> decide +kernel
  · decide +kernel
  · exact List.pairwise_pair.mpr (Or.inl (by decide +kernel))
  · exact List.pairwise_pair.mpr ⟨by decide +kernel, by decide +kernel⟩
  all_goals decide +kernel

theorem test_witness_roster_sound :
    RosterSound { active with pending := [.showTick] } ∧
      step { active with pending := [.showTick] } = .next (after .showTick active) := by
  refine ⟨?_, rfl⟩
  constructor
  case deadline =>
    intro i p h
    have hn : ∀ i : Fin 31, active.roster.entries[i] = none := by decide +kernel
    exact absurd (h.symm.trans (hn i)) (by simp)
  all_goals decide +kernel

theorem test_witness_level_and_supply_sound :
    (LevelSound { active with pending := [.showTick] } ∧ SupplySound { active with pending := [.showTick] }) ∧
      step { active with pending := [.showTick] } = .next (after .showTick active) := by
  refine ⟨⟨?_, ?_⟩, rfl⟩
  · constructor
    case ramp => exact fun r h => absurd h (by simp [active])
    all_goals decide +kernel
  · constructor <;> decide +kernel

/-- A running node with a waiting record and a running layer. -/
def busy : State := { active with
  cues := [{ cue with key := ⟨3, 8⟩ }]
  stack := ⟨[layer], 1⟩
  pending := [.showTick] }

theorem test_witness_cues_sound : CueSound busy ∧ step busy = .next (after .showTick { busy with pending := [] }) := by
  refine ⟨?_, rfl⟩
  constructor
  case cues =>
    intro c hc
    have h : c = { cue with key := ⟨3, 8⟩ } := by simpa [busy] using hc
    subst h
    constructor <;> decide +kernel
  case layers =>
    intro l hl
    have h : l = layer := by simpa [busy] using hl
    subst h
    constructor
    case fading => exact fun h => absurd h (by decide)
    all_goals decide +kernel
  case fifo => exact fun e he => absurd he (by simp [busy, active, State.reset, State.powerOn, Intake.empty])
  case slot => exact fun h hh => absurd hh (by simp [busy, active, State.reset, State.powerOn, Intake.empty])
  all_goals decide +kernel

theorem test_witness_drain_sound :
    DrainSound { lit [layer] with nodeState := .draining .proper, drainDeadline := some 1, pending := [.showTick] } ∧
      step { lit [layer] with nodeState := .draining .proper, drainDeadline := some 1, pending := [.showTick] } =
        .next (after .showTick { lit [layer] with nodeState := .draining .proper, drainDeadline := some 1 }) := by
  refine ⟨?_, rfl⟩
  constructor
  case transition => exact fun tr h => absurd h (by simp [lit, active])
  all_goals decide +kernel

theorem test_witness_ports_sound :
    PortsSound { active with pending := [.showTick] } ∧
      step { active with pending := [.showTick] } = .next (after .showTick active) := by
  refine ⟨?_, rfl⟩
  constructor
  case port =>
    intro p
    fin_cases p <;> constructor <;> decide +kernel
  all_goals decide +kernel

theorem test_witness_configuration_sound :
    ConfigSound { active with pending := [.showTick] } ∧
      step { active with pending := [.showTick] } = .next (after .showTick active) :=
  ⟨fun _ => configOf_legal test_record_good.2, rfl⟩

theorem test_witness_configuration_reads :
    let s := State.reset
    s.nodeState = .starting (.reading 0) ∧ (0x4D : Byte) ≠ 0x4C ∧
      { s with nodeState := .starting .resetHeld }.nodeState = .starting .resetHeld ∧
      { s with nodeState := .starting (.reading 2) }.nodeState = .starting (.reading 2) ∧
      { s with nodeState := .starting (.waiting 1) }.nodeState = .starting (.waiting 1) ∧
      badRecord.length = 96 ∧ badRecord.head? = some 0x4C ∧
      (crcBytes (badRecord.take 94) ≠ badRecord.getD 94 0 ++ badRecord.getD 95 0 ∨ recordLegal badRecord = false) ∧
      (record.set 1 31).length = 96 ∧ (record.set 1 31).head? = some 0x4C ∧ recordLegal (record.set 1 31) = false := by
  refine ⟨by decide +kernel, by decide, by decide +kernel, by decide +kernel, by decide +kernel, by decide +kernel,
    by decide +kernel, Or.inl ?_, by decide +kernel, by decide +kernel, by decide +kernel⟩
  have h : badRecord.getD 94 0 ++ badRecord.getD 95 0 = 0x8500#16 := by decide +kernel
  rw [h]
  exact test_bad_record.2.1

theorem test_witness_entry_to_active :
    State.reset.nodeState = .starting (.reading 0) ∧ record.length = 96 ∧ record.head? = some 0x4C ∧
      crcBytes (record.take 94) = record.getD 94 0 ++ record.getD 95 0 ∧ recordLegal record = true ∧
      { active with nodeState := .waking }.nodeState = .waking := by
  refine ⟨by decide +kernel, by decide +kernel, by decide +kernel, ?_, by decide +kernel, by decide +kernel⟩
  rw [test_record_check]
  decide +kernel

theorem test_witness_edges_on_the_line :
    { active with nodeState := .asleep }.nodeState = .asleep ∧
      (State.reset.running = false ∧ State.reset.nodeState ≠ .asleep) ∧
      (let s := { active with bus := { active.bus with standing := .silent } };
        s.running = true ∧ s.bus.standing = .silent ∧ 1000 + 12000 ≤ 13000 ∧ 1000 ≤ 15999 ∧
          15999 < max 4000 1000 + 12000) ∧
      (active.running = true ∧ active.bus.standing ≠ .silent ∧ active.bus.line = .outside .rise 0 ∧
        1000 + 12000 ≤ 13000 ∧ ¬1000 + 12000 ≤ 12999) ∧
      ((active.watch (.outside .bitEnd 0)).bus.line = .outside .bitEnd 0 ∧ max 4000 1000 + 12000 ≤ 16000 ∧
        ¬max 4000 1000 + 12000 ≤ 15999) ∧
      (receiving.bus.line = .receiving ∧ 6000 ≤ 6000 ∧ 6000 + 12000 ≤ 18000 ∧ ¬6000 + 12000 ≤ 17999) ∧
      (∀ f i, receiving.bus.line ≠ .outside f i) := by
  refine ⟨by decide +kernel, by decide +kernel, by decide +kernel, by decide +kernel, by decide +kernel,
    by decide +kernel, fun f i h => ?_⟩
  exact absurd h (by simp [receiving])

theorem test_witness_headers_of_sent_frames :
    (3 : ZoneNo).toNat < (4 : ZoneNo).toNat ∧ (0x0A1 : BitVec 12).extractLsb' 0 10 = (0xCA1 : BitVec 12).extractLsb' 0 10 := by
  decide +kernel

theorem test_witness_sent_frames_are_received_whole :
    ([] : List Byte).length ≤ 14 ∧ (List.replicate 14 (0xFF : Byte)).length ≤ 14 := by decide

theorem test_witness_bodies_of_sent_frames :
    (entry .cap 0 false).kind = .cap ∧
      ((entry .handoff 0 false).kind = .handoff ∧ (entry .handoff 0 false).wave = some ⟨⟨3, 7⟩, 1⟩) ∧
      ((entry .presence 0 false).kind = .presence ∧ (waiting (List.replicate 8 cue)).cues.length ≤ 8 ∧
        (lit (List.replicate 6 layer)).stack.layers.length ≤ 6) ∧
      ((entry .status 0 false).kind = .status ∧ active.running = true ∧ active.cues.length ≤ 8 ∧
        active.stack.layers.length ≤ 6) := by decide +kernel

theorem test_witness_attempt_starts :
    (let s := queued [entry .cap 0 false];
      s.running = true ∧ s.bus.standing = .speaking ∧ s.bus.line = .outside .rise 0 ∧
        s.out.entries = entry .cap 0 false :: [] ∧ 0 + 12000 ≤ 12000) ∧
      State.reset.running = false ∧
      { active with bus := { active.bus with standing := .listenOnly } }.bus.standing ≠ .speaking ∧
      (receiving.bus.line = .receiving ∧ ¬6000 ≤ 5999) ∧ active.out.entries = [] ∧ ¬0 + 12000 ≤ 11999 := by
  decide +kernel

/-- The hypotheses on an attempt in flight behind a newly joined entry. -/
theorem test_witness_attempt_sent_settles :
    let s := sending capFrame [entry .cap 1 false, { entry .presence 0 true with renew := true }]
    s.running = true ∧ s.bus.line = .sending capFrame ∧
      s.out.entries = [entry .cap 1 false] ++ { entry .presence 0 true with renew := true } :: [] ∧
      (entry .presence 0 true).inFlight = true ∧ (∀ x ∈ [entry .cap 1 false] ++ [], x.inFlight = false) := by
  decide +kernel

theorem test_witness_attempt_voided_settles :
    (let s := sending capFrame [entry .cap 0 true];
      s.running = true ∧ s.bus.line = .sending capFrame ∧ s.out.entries = [] ++ entry .cap 0 true :: [] ∧
        (entry .cap 0 true).inFlight = true ∧ (∀ x ∈ ([] : List SendEntry) ++ [], x.inFlight = false) ∧
        s.bus.voidRun + 1 < 8 ∧
        { s with bus := { s.bus with voidRun := 7 } }.bus.voidRun + 1 = 8) ∧
      (capFrame.bits[12]? = some false ∧ ¬(1 ≤ 12 ∧ 12 ≤ 12 ∧ false = true ∧ true = false) ∧ (true ≠ false)) ∧
      (capFrame.bits[0]? = some false ∧ ¬((500 ≤ 1501 ∧ 1501 ≤ 1500) ∨ (2500 ≤ 1501 ∧ 1501 ≤ 3500))) ∧
      (capFrame.bits[40]?.isSome = true ∧ 0 < 40 ∧ ¬(3500 ≤ 4501 ∧ 4501 ≤ 4500) ∧ ¬(3500 ≤ 3499 ∧ 3499 ≤ 4500)) ∧
      (capFrame.bits[4]? = some true ∧ (1 ≤ 4 ∧ 4 ≤ 12 ∧ true = true ∧ false = false) ∧
        ¬((500 ≤ 1999 ∧ 1999 ≤ 1500) ∨ (2500 ≤ 1999 ∧ 1999 ≤ 3500)) ∧ 1999 ≤ 32000 ∧ 1999 < 2000) ∧
      (¬((500 ≤ 2000 ∧ 2000 ≤ 1500) ∨ (2500 ≤ 2000 ∧ 2000 ≤ 3500)) ∧ ¬2000 < 2000 ∧ 32000 ≤ 32000) := by
  decide +kernel

theorem test_witness_contention_lost_settles :
    let s := sending capFrame [entry .cap 0 true]
    s.running = true ∧ s.bus.line = .sending capFrame ∧ capFrame.header.getMsbD (3 : Fin 12) = true ∧
      s.out.entries = [] ++ entry .cap 0 true :: [] ∧ (entry .cap 0 true).inFlight = true ∧
      (∀ x ∈ ([] : List SendEntry) ++ [], x.inFlight = false) := by decide +kernel

theorem test_witness_line_stuck_and_recovery :
    (active.running = true ∧ 32000 < 32001 ∧ ∀ f, active.bus.line ≠ .sending f) ∧
      (let s := sending capFrame [entry .cap 0 true];
        s.running = true ∧ s.bus.line = .sending capFrame ∧ s.out.entries = [] ++ entry .cap 0 true :: [] ∧
          (entry .cap 0 true).inFlight = true ∧ (∀ x ∈ ([] : List SendEntry) ++ [], x.inFlight = false)) ∧
      (let s := { active with bus := { active.bus with standing := .silent } };
        s.running = true ∧ s.bus.standing = .silent ∧ 256000 ≤ 256000) := by
  refine ⟨⟨by decide +kernel, by decide, fun f h => ?_⟩, by decide +kernel, by decide +kernel⟩
  exact absurd h (by simp [active])

theorem test_witness_quiet_period_expires :
    (let s := { active with bus := { active.bus with standing := .listenOnly, quietDeadline := some 0 } };
      s.running = true ∧ s.bus.standing = .listenOnly ∧ s.bus.quietDeadline = some 0 ∧
        reached s.showClock 0 = true ∧ s.config.recovery = .auto) ∧
      { active with config := { active.config with recovery := .peer } }.config.recovery = .peer := by decide +kernel

theorem test_witness_votes_and_runs :
    (let s := receiving;
      s.running = true ∧ s.bus.standing ≠ .silent ∧ s.bus.line = .receiving ∧ s.bus.muted = false ∧
        s.bus.faultRun < 15) ∧
      rxComplete (heard 0x161 [64]) = true ∧
      (rxComplete ((heard 0x161 [64]).set 20 ⟨4501, 1000, true⟩) = true ∧
        rxFaulty ((heard 0x161 [64]).set 20 ⟨4501, 1000, true⟩) = true) ∧
      (rxCut ((heard 0x161 [64]).take 17) = true ∧ 17 ≤ ((heard 0x161 [64]).take 17).length) ∧
      (rxCut ((heard 0x161 [64]).take 16) = true ∧ ((heard 0x161 [64]).take 16).length < 17) ∧
      (rxComplete ((heard 0x161 [64]).set 18 ⟨4500, 1000, true⟩) = true ∧
        rxFaulty ((heard 0x161 [64]).set 18 ⟨4500, 1000, true⟩) = false) ∧
      (rxFaulty ((heard 0x161 [64]).set 18 ⟨4000, 1501, true⟩) = true ∧
        rxFaulty ((heard 0x161 [64]).set 18 ⟨4000, 1500, true⟩) = false) ∧
      (let s := active.watch .stopped;
        s.running = true ∧ s.bus.standing ≠ .silent ∧ s.bus.line = .stopped) ∧
      { active.bus with faultRun := 15 }.faultRun = 15 ∧
      (let b := { active.bus with muted := true, cleanRun := 14 };
        b.muted = true ∧ b.cleanRun < 15) ∧
      (let b := { active.bus with muted := true, cleanRun := 15 };
        b.muted = true ∧ b.cleanRun = 15) := by decide +kernel

theorem test_witness_frames_taken :
    (receiving.running = true ∧ receiving.bus.standing ≠ .silent ∧ receiving.bus.line = .receiving ∧
      rxComplete (heard 0x164 [64]) = true ∧ rxFaulty (heard 0x164 [64]) = false) ∧
      State.reset.running = false ∧
      { active with bus := { active.bus with standing := .silent } }.bus.standing = .silent := by decide +kernel

/-- For each step of the checks a frame that comes as far as that step: a CALL in DRAINING, an origin of 31, a short
SLEEP, a SLEEP of 0, a QUERY for another zone, and a QUERY for this one. -/
theorem test_witness_acceptance_checks_in_order :
    ((draining .ordered).nodeState = .draining .ordered ∧ ((0x043 : BitVec 12).extractLsb' 5 5).toNat = 2) ∧
      (active.nodeState = .active ∧ (0x03F : BitVec 12).extractLsb' 0 5 = 31#5) ∧
      (((0x0E1 : BitVec 12).extractLsb' 5 5).toNat = 7 ∧ (0x0E1 : BitVec 12).extractLsb' 0 5 ≠ 31#5 ∧
        ([] : List Byte).length ≠ 1 ∧ ([0] : List Byte).length = 1 ∧ ([0] : List Byte).getD 0 0 = 0) ∧
      (((0x101 : BitVec 12).extractLsb' 5 5).toNat = 8 ∧ ([30] : List Byte).getD 0 0 &&& 0xE0 = 0 ∧
        (([30] : List Byte).getD 0 0).extractLsb' 0 5 ≠ active.config.zone ∧
        (([30] : List Byte).getD 0 0).extractLsb' 0 5 ≠ 31#5 ∧
        (([4] : List Byte).getD 0 0).extractLsb' 0 5 = active.config.zone) := by decide +kernel

theorem test_witness_delivery_and_handling :
    (4 : ZoneNo) = active.config.zone ∧
      ((30 : Fin 31).val = (30 : ZoneNo).toNat ∧ (30 : ZoneNo) ≠ active.config.zone) ∧
      bodyOrder .sleep [1] = some (.sleep 1) ∧ (active.intake.slot = none ∧ active.intake.fifo = []) ∧
      ((handling 1 .wake).intake.slot ≠ none ∧ (handling 1 .wake).intake.fifo.length < 4) ∧
      (let s := { active with intake := ⟨List.replicate 4 ⟨1, .wake⟩, some ⟨⟨1, .wake⟩, ⟨0, 400⟩⟩, []⟩ };
        s.intake.fifo.length = 4) ∧
      (id { active with intake := { active.intake with slot := none } }).intake = { active.intake with slot := none } := by
  decide +kernel

theorem test_witness_fields_of_orders : Effect.ofField ((0x50 : Byte).extractLsb' 2 3) = some .chase := by decide +kernel

theorem test_witness_requests_fold_or_join :
    (State.reset.running = false ∧ { active.bus with standing := .silent }.standing ≠ .speaking) ∧
      (let s := queued [entry .cap 0 true, entry .presence 1 false];
        s.running = true ∧ s.bus.standing = .speaking ∧
          s.out.entries = [] ++ entry .cap 0 true :: [entry .presence 1 false] ∧
          (∀ x ∈ ([] : List SendEntry) ++ [entry .presence 1 false],
            ¬(x.kind = .cap ∧ x.wave.map Wave.key = none))) ∧
      (let s := queued [entry .cap 0 true, entry .presence 1 false];
        s.out.entries = [entry .cap 0 true] ++ [entry .presence 1 false] ∧ s.out.entries.length < 4 ∧
          (∀ x ∈ [entry .cap 0 true] ++ [entry .presence 1 false], ¬(x.kind = .status ∧ x.wave.map Wave.key = none)) ∧
          (∀ x ∈ [entry .cap 0 true], x.header.toNat ≤ (sendHeader .status s.config.zone).toNat) ∧
          (∀ x ∈ [entry .presence 1 false], (sendHeader .status s.config.zone).toNat < x.header.toNat)) := by
  decide +kernel

/-- A HANDOFF entry of another key. -/
def handoffOf (tag : Byte) (order : Nat) : SendEntry := { entry .handoff order false with wave := some ⟨⟨3, tag⟩, 1⟩ }

theorem test_sound_of_entries (es : List SendEntry) (he : ∀ e ∈ es, e.Sound 4) (hl : es.length ≤ 4)
    (ho : es.Pairwise SendEntry.Ahead) (ha : es.Pairwise SendEntry.Apart) (hc : ∀ e ∈ es, e.order < 9)
    (hf : (es.filter SendEntry.inFlight).length = 0) : QueueSound (queued es) where
  entry := he
  length := hl
  ordered := ho
  apart := ha
  counter := hc
  empty := fun h => absurd (show active.takesRequests = false from h) (by decide +kernel)
  attempt := hf
  speaking := fun _ => show active.takesRequests = true by decide +kernel

theorem test_handoff_sound (tag : Byte) (order : Nat) : (handoffOf tag order).Sound 4 := by
  constructor <;> simp [handoffOf, entry, SendKind.budget, GroupFlags.clear]

theorem test_witness_full_queue_makes_room :
    let es := [handoffOf 1 0, handoffOf 2 1, entry .status 2 false, entry .presence 3 false]
    let fs := [handoffOf 1 0, handoffOf 2 1, handoffOf 3 2, handoffOf 4 3]
    (QueueSound (queued es) ∧ QueueSound (queued fs)) ∧ (queued es).running = true ∧
      (queued es).bus.standing = .speaking ∧ (queued es).out.entries.length = 4 ∧ (queued fs).out.entries.length = 4 ∧
      (∀ x ∈ es, ¬(x.kind = .cap ∧ x.wave.map Wave.key = none)) ∧
      (∀ x ∈ es, ¬(x.kind = .handoff ∧ x.wave.map Wave.key = some ⟨3, 9⟩)) ∧
      (∀ x ∈ fs, ¬(x.kind = .handoff ∧ x.wave.map Wave.key = some ⟨3, 9⟩)) ∧
      (∀ x ∈ fs, x.kind ≠ .status ∧ x.kind ≠ .presence) ∧
      (entry .status 2 false ∈ es ∧ (entry .status 2 false).kind = .status ∧
        es = [handoffOf 1 0, handoffOf 2 1] ++ entry .status 2 false :: [entry .presence 3 false]) := by
  refine ⟨⟨test_sound_of_entries _ ?_ (by decide) ?_ ?_ (by decide +kernel) (by decide +kernel),
    test_sound_of_entries _ ?_ (by decide) ?_ ?_ (by decide +kernel) (by decide +kernel)⟩, by decide +kernel⟩
  · intro e he
    simp only [List.mem_cons, List.not_mem_nil, or_false] at he
    rcases he with rfl | rfl | rfl | rfl
    · exact test_handoff_sound _ _
    · exact test_handoff_sound _ _
    all_goals constructor <;> decide +kernel
  · unfold SendEntry.Ahead
    decide +kernel
  · unfold SendEntry.Apart
    decide +kernel
  · intro e he
    simp only [List.mem_cons, List.not_mem_nil, or_false] at he
    rcases he with rfl | rfl | rfl | rfl <;> exact test_handoff_sound _ _
  · unfold SendEntry.Ahead
    decide +kernel
  · unfold SendEntry.Apart
    decide +kernel

theorem test_witness_full_queue_refuses_reports :
    let es := [handoffOf 1 0, handoffOf 2 1, handoffOf 3 2, handoffOf 4 3]
    let s := { queued es with
      intake := { active.intake with slot := some ⟨⟨9, .query 4⟩, ⟨0, 400⟩⟩ }
      roster := { active.roster with presenceTimer := some 0 } }
    s.running = true ∧ s.bus.standing = .speaking ∧ s.out.entries.length = 4 ∧
      (∀ x ∈ s.out.entries, x.kind ≠ .status) ∧ (∀ x ∈ s.out.entries, x.kind ≠ .presence) ∧
      s.intake.slot = some ⟨⟨9, .query 4⟩, ⟨0, 400⟩⟩ ∧ s.roster.presenceTimer = some 0 ∧
      reached s.showClock 0 = true ∧
      (let u := { after .presenceTimerExpiry s with showClock := 400 };
        u.running = true ∧ u.config = s.config ∧ u.roster = { s.roster with presenceTimer := some 400 } ∧
          reached u.showClock 400 = true) := by decide +kernel

/-- A peer heard at time 0. -/
def peer : Peer := ⟨.lighting, 100, 0, 0⟩

/-- The node with `peer` as zone 3. -/
def heardFrom3 : State := active.setPeer 3 (some peer)

theorem test_witness_presence_delivered :
    let s := { active with intake := { active.intake with inbox := [.presence 30 .lighting 100] } }
    (s.running = true ∧ s.intake.inbox = .presence 30 .lighting 100 :: []) ∧
      (heardFrom3.roster.entries[(3 : Fin 31)] ≠ none) ∧
      (entry .presence 0 false ∈ (queued [entry .presence 0 false]).out.entries ∧
        (entry .presence 0 false).kind = .presence) ∧
      (s.roster.entries[(30 : Fin 31)] = none ∧ s.out.entries = [] ∧ s.roster.completionStamp = none) ∧
      (let u := { s with showClock := 99, roster := { s.roster with completionStamp := some 0 } };
        u.roster.completionStamp = some 0 ∧ (u.showClock - 0).toNat * 4 < 50 * u.config.presenceCount) ∧
      (let u := { s with bus := { s.bus with standing := .listenOnly, expiryMark := true } };
        u.bus.standing = .listenOnly ∧ u.bus.expiryMark = true) := by decide +kernel

theorem test_witness_cap_delivered :
    let s := { active with intake := { active.intake with inbox := [.cap 0 255] } }
    s.running = true ∧ s.intake.inbox = .cap 0 255 :: [] := by decide +kernel

theorem test_witness_roster_timers_expire :
    (heardFrom3.running = true ∧ heardFrom3.roster.entries[(3 : Fin 31)] = some peer ∧
      reached heardFrom3.showClock peer.absence = true ∧ (3 : ZoneNo).toNat = (3 : Fin 31).val) ∧
      (let s := waiting [{ cue with key := ⟨3, 9⟩, state := .delaying }, cue];
        (s.cues.map CueRecord.key).Nodup ∧ s.cues = [{ cue with key := ⟨3, 9⟩, state := .delaying }] ++ cue :: [] ∧
          cue.state = .awaitHandoff ∧ (3 : ZoneNo) ∈ (s.config.route cue.route).predecessors ∧
          (∀ x ∈ [{ cue with key := ⟨3, 9⟩, state := .delaying }], x.state ≠ .awaitHandoff) ∧
          (2 : ZoneNo) ∉ (s.config.route cue.route).predecessors) ∧
      (let s := { active with roster := { active.roster with presenceTimer := some 0 } };
        s.running = true ∧ s.roster.presenceTimer = some 0 ∧ reached s.showClock 0 = true) := by decide +kernel

theorem test_witness_cap_term_follows_the_target :
    (heardFrom3.roster.entries[(3 : Fin 31)] = some peer ∧ peer.kind = .lighting) ∧
      (active.target.toNat ≤ active.level.k.toNat) ∧
      (let s := { active with level := ⟨254, 200, 200, none, none⟩ };
        s.level.k.toNat < s.target.toNat ∧ s.level.slewDeadline = none) ∧
      (let s := { active with level := ⟨254, 200, 200, some 0, none⟩ };
        s.running = true ∧ s.level.slewDeadline = some 0 ∧ reached s.showClock 0 = true) := by decide +kernel

theorem test_witness_dimmer_ramps :
    (let s := handling 9 (.dim 50 5);
      s.running = true ∧ s.intake.slot = some ⟨⟨9, .dim 50 5⟩, ⟨0, 400⟩⟩ ∧ (5 : Byte) ≠ 0) ∧
      (handling 9 (.dim 50 0)).intake.slot = some ⟨⟨9, .dim 50 0⟩, ⟨0, 400⟩⟩ ∧
      (let s := { active with level := ⟨255, 80, 80, none, some ⟨200, 50, 5, 4, 0⟩⟩ };
        s.running = true ∧ s.level.ramp = some ⟨200, 50, 5, 4, 0⟩ ∧ reached s.showClock 0 = true ∧ 4 < 5) := by
  decide +kernel

/-- A band that leaves the state (B3 in NORMAL), one that moves it with its cap kept (B2), and one that changes the cap
(B0); 7000 mV and the levels above it lie in the band above. -/
theorem test_witness_band_events_move_the_supply :
    active.running = true ∧ active.supply.band = .b4 ∧ active.supply.state = .normal ∧ active.supply.ownCap = 255 ∧
      bandOf active.config.vtSelection 10000 = .b3 ∧ bandOf active.config.vtSelection 9999 = .b2 ∧
      bandOf active.config.vtSelection 7000 = .b1 ∧ bandOf active.config.vtSelection 6999 = .b0 ∧
      bandOf active.config.vtSelection 10400 = .b4 := by decide +kernel

theorem test_witness_supply_timers_expire :
    (let s := { active with supply := ⟨.sagPending, 255, some 0, none, .b2⟩ };
      s.running = true ∧ reached s.showClock 0 = true ∧ s.supply.state = .sagPending ∧ s.supply.settle = some 0) ∧
      (let s := { active with supply := ⟨.recoverPending, 64, none, some 0, .b4⟩ };
        s.running = true ∧ s.supply.state = .recoverPending ∧ s.supply.release = some 0) := by decide +kernel

/-- A fading layer of `key`. -/
def fading : Layer := { layer with state := .fading, fade := some ⟨255, 2, 1, 0⟩, opacity := 128 }

/-- A layer of another key, above `layer`. -/
def upperLayer : Layer := { layer with key := ⟨3, 8⟩, startOrder := 1 }

theorem test_witness_call_of_a_held_key :
    (let s := handling 3 (.call 7 1 shape 0);
      s.running = true ∧ s.intake.slot = some ⟨⟨3, .call 7 1 shape 0⟩, ⟨0, 400⟩⟩) ∧
      (draining .proper).isDraining = true ∧
      (let s := lit [fading, upperLayer];
        s.isDraining = false ∧ s.stack.layers = [] ++ fading :: [upperLayer] ∧ fading.key = key ∧
          (∀ x ∈ [] ++ [upperLayer], x.key ≠ key) ∧ fading.state = .fading) ∧
      (let s := lit [layer, upperLayer];
        s.stack.layers = [] ++ layer :: [upperLayer] ∧ layer.state ≠ .fading ∧ [] ++ [upperLayer] = [] ++ [upperLayer] ∧
          (∀ x ∈ [upperLayer], x.shape.priority = shape.priority ∧ layer.startOrder < x.startOrder)) ∧
      (let s := waiting [cue];
        s.isDraining = false ∧ (∀ x ∈ s.stack.layers, x.key ≠ key) ∧ s.cues = [] ++ cue :: [] ∧ cue.key = key ∧
          (∀ x ∈ ([] : List CueRecord) ++ [], x.key ≠ key) ∧ cue.route = 1 ∧ cue.route ≠ 2) := by decide +kernel

/-- Eight records of keys other than `key`. -/
def eightCues : List CueRecord := (List.range 8).map fun n => { cue with key := ⟨5, BitVec.ofNat 8 (n + 1)⟩ }

theorem test_witness_call_of_a_new_key :
    (let s := waiting eightCues;
      s.isDraining = false ∧ (∀ x ∈ s.stack.layers, x.key ≠ key) ∧ (∀ x ∈ s.cues, x.key ≠ key) ∧
        s.cues = { cue with key := ⟨5, 1⟩ } :: eightCues.tail ∧ s.cues.length = 8 ∧ s.config.policy = .replaceOldest) ∧
      { active with config := { active.config with policy := .refuseNew } }.config.policy = .refuseNew ∧
      (waiting eightCues.tail).cues.length < 8 ∧
      (let s := waiting [cue];
        s.cues = [] ++ cue :: [] ∧ (∀ x ∈ ([] : List CueRecord) ++ [], x.key ≠ cue.key) ∧
          (s.config.route 0).predecessors = [] ∧
          ((s.config.route 1).predecessors ≠ [] ∧ (s.config.route 1).join = .first ∧
            (3 : ZoneNo) ∈ (s.config.route 1).predecessors ∧ s.peer 3 = none) ∧
          heardFrom3.peer 3 ≠ none ∧ (∀ z ∈ (s.config.route 1).predecessors, z = 3)) := by decide +kernel

theorem test_witness_handoff_handled :
    (let s := handling 3 (.handoff 3 7 1);
      s.running = true ∧ s.intake.slot = some ⟨⟨3, .handoff 3 7 1⟩, ⟨0, 400⟩⟩) ∧
      (layer ∈ (lit [layer]).stack.layers ∧ layer.key = key) ∧ (∀ c ∈ active.cues, c.key ≠ key) ∧
      (let s := waiting [cue];
        (∀ l ∈ s.stack.layers, l.key ≠ key) ∧ s.cues = [] ++ cue :: [] ∧ cue.key = key ∧
          (∀ x ∈ ([] : List CueRecord) ++ [], x.key ≠ key) ∧ cue.route ≠ 2 ∧ cue.route = 1 ∧
          cue.state = .awaitHandoff ∧ (s.config.route 1).join = .first) ∧
      (let r := { active.config.route 1 with join := .both, predecessors := [3, 5] };
        r.join = .both ∧ ¬∀ p ∈ r.predecessors, p ∈ [(3 : ZoneNo)]) := by decide +kernel

theorem test_witness_cancel_handled :
    let s := handling 9 (.cancel 31 0 .fadeOut 2)
    s.running = true ∧ s.intake.slot = some ⟨⟨9, .cancel 31 0 .fadeOut 2⟩, ⟨0, 400⟩⟩ := by decide +kernel

theorem test_witness_cue_deadlines_expire :
    (let s := waiting [{ cue with fallback := some 0 }];
      s.cues = [] ++ { cue with fallback := some 0 } :: [] ∧
        (∀ x ∈ ([] : List CueRecord) ++ [], x.key ≠ cue.key) ∧ s.running = true ∧ cue.state = .awaitHandoff ∧
        reached s.showClock 0 = true ∧ cue.startDelay = 0) ∧
      (let c := { cue with state := .delaying, fallback := none, delay := some 0, startDelay := 1 };
        c.state = .delaying ∧ c.delay = some 0 ∧ c.startDelay ≠ 0) := by decide +kernel

/-- Six layers of priority 2 and keys other than `key`, bottom first. -/
def sixLayers : List Layer :=
  (List.range 6).map fun n => { layer with key := ⟨5, BitVec.ofNat 8 (n + 1)⟩, startOrder := n }

theorem test_witness_cues_start_as_layers :
    (let s := waiting [cue];
      s.cues = [] ++ cue :: [] ∧ (∀ x ∈ ([] : List CueRecord) ++ [], x.key ≠ cue.key)) ∧
      (let s := lit sixLayers.tail;
        let l := { layer with startOrder := 9 };
        (∀ x ∈ s.stack.layers, x.startOrder < l.startOrder) ∧ (∀ x ∈ s.stack.layers, x.key ≠ l.key) ∧
          (s.stack.layers.map Layer.key).Nodup ∧ s.stack.layers.length < 6 ∧
          s.stack.layers = sixLayers.tail ++ [] ∧
          (∀ x ∈ sixLayers.tail, x.shape.priority.toNat ≤ l.shape.priority.toNat)) ∧
      (let s := lit sixLayers;
        let high := { layer with startOrder := 9, shape := { shape with priority := 3 } };
        (∀ x ∈ s.stack.layers, x.startOrder < high.startOrder) ∧ (∀ x ∈ s.stack.layers, x.key ≠ high.key) ∧
          (s.stack.layers.map Layer.key).Nodup ∧
          s.stack.layers = { layer with key := ⟨5, 1⟩ } :: sixLayers.tail ∧ sixLayers.tail.length = 5 ∧
          layer.shape.priority.toNat < high.shape.priority.toNat ∧
          layer.shape.priority.toNat ≤ layer.shape.priority.toNat) ∧
      (let l := { layer with phase := 50 };
        (∀ x ∈ active.stack.layers, x.key ≠ key) ∧ (lit [l]).stack.layers = [] ++ l :: [] ∧ l.key = key ∧
          (∀ x ∈ ([] : List Layer) ++ [], x.key ≠ key) ∧ l.state = .running ∧ l.spent = false ∧
          l.phase = l.shape.period.toNat * l.shape.handoffPoint.toNat / 256 ∧
          (active.config.route 1).sendsHandoff = true ∧ (active.config.route 2).sendsHandoff = false ∧
          layer.phase ≠ layer.shape.period.toNat * layer.shape.handoffPoint.toNat / 256) := by decide +kernel

theorem test_witness_ticks_and_phases :
    active.running = true ∧ State.reset.running = false ∧
      (let s := lit [layer];
        s.running = true ∧ s.stack.layers = [] ++ layer :: [] ∧ (∀ x ∈ ([] : List Layer) ++ [], x.key ≠ layer.key) ∧
          layer.state = .running ∧ (if layer.shape.long then 64 else 1) ≤ layer.subCount) ∧
      (let l := { fading with shape := { shape with long := true }, subCount := 64, phase := 99 };
        l.state = .fading ∧ l.phase < l.shape.period.toNat ∧ (if l.shape.long then 64 else 1) ≤ l.subCount ∧
          l.phase + 1 = l.shape.period.toNat) := by decide +kernel

theorem test_witness_fades_step :
    let s := lit [fading]
    s.running = true ∧ s.stack.layers = [] ++ fading :: [] ∧ (∀ x ∈ ([] : List Layer) ++ [], x.key ≠ fading.key) ∧
      fading.state = .fading ∧ fading.fade = some ⟨255, 2, 1, 0⟩ ∧ reached s.showClock 0 = true ∧ 1 + 1 = 2 ∧
      0 + 1 < 2 := by decide +kernel

theorem test_witness_themes_and_transitions :
    (let s := handling 9 (.theme warm 10 0);
      s.running = true ∧ s.intake.slot = some ⟨⟨9, .theme warm 10 0⟩, ⟨0, 400⟩⟩) ∧
      (let s := { active with base := ⟨⟨warm, 0⟩, ⟨warm, 200⟩, some ⟨⟨warm, 0⟩, ⟨warm, 200⟩, 50, 49, 0⟩⟩ };
        s.running = true ∧ s.base.transition = some ⟨⟨warm, 0⟩, ⟨warm, 200⟩, 50, 49, 0⟩ ∧
          reached s.showClock 0 = true ∧ 49 < 50) := by decide +kernel

theorem test_witness_notices_and_reports :
    active.running = true ∧
      (handling 9 (.clear 31 0xFFFF)).intake.slot = some ⟨⟨9, .clear 31 0xFFFF⟩, ⟨0, 400⟩⟩ ∧
      (handling 9 (.query 4)).intake.slot = some ⟨⟨9, .query 4⟩, ⟨0, 400⟩⟩ ∧
      (handling 9 (.status [])).intake.slot = some ⟨⟨9, .status []⟩, ⟨0, 400⟩⟩ := by decide +kernel

theorem test_witness_sleep_handled :
    let s := handling 9 (.sleep 1)
    s.intake.slot = some ⟨⟨9, .sleep 1⟩, ⟨0, 400⟩⟩ ∧ s.nodeState = .active ∧
      { s with nodeState := .draining .dark }.nodeState = .draining .dark := by decide +kernel

/-- The node past the dark order, an order in its slot: S0 still shifts its dark frame, S2 is dark. -/
def ordered (o : Order) : State := { handling 9 o with
  nodeState := .draining .ordered
  ports := #v[Port.powerOn.beginDark active.config.ports[0] 0, Port.powerOn,
    { Port.powerOn with reportedDark := true }, Port.powerOn] }

theorem test_witness_wake_handled :
    (handling 9 .wake).intake.slot = some ⟨⟨9, .wake⟩, ⟨0, 400⟩⟩ ∧ (handling 9 .wake).nodeState = .active ∧
      (ordered .wake).intake.slot = some ⟨⟨9, .wake⟩, ⟨0, 400⟩⟩ ∧ (ordered .wake).nodeState = .draining .ordered ∧
      (ordered .wake).config.darkFade ≠ 0 ∧
      ((ordered .wake).ports[0].state = .dark ∧ (ordered .wake).ports[0].activity = .darkShifting ∧
        (ordered .wake).config.ports[0].type ≠ .off) ∧
      ((ordered .wake).ports[1].state = .dark ∧ (ordered .wake).config.ports[1].type = .off) ∧
      ((ordered .wake).ports[2].state = .dark ∧ (ordered .wake).ports[2].activity = .none) ∧
      (port 0).state ≠ .dark := by decide +kernel

theorem test_witness_drains_end :
    (let s := draining .proper;
      s.nodeState = .draining .proper ∧ s.drainDeadline = some 0 ∧ reached s.showClock 0 = true ∧
        (∀ l ∈ s.stack.layers, l.state = .held)) ∧
      (layer ∈ { lit [layer] with nodeState := .draining .proper }.stack.layers ∧ layer.state ≠ .held) ∧
      (draining .dark).nodeState = .draining .dark ∧ (draining .ordered).nodeState = .draining .ordered ∧
      (let s := { draining .dark with base := ⟨⟨warm, 0⟩, ⟨warm, 200⟩, none⟩ };
        s.base.current.level = 0 ∧ s.base.transition = none ∧ s.stack.layers = [] ∧
          (∀ p : Fin 4, s.ports[p].state ≠ .dark)) ∧
      (draining .dark).base.current.level ≠ 0 := by decide +kernel

theorem test_witness_entry_to_asleep :
    let s := { draining .ordered with ports := Vector.replicate 4 { Port.powerOn with reportedDark := true } }
    (s.nodeState = .draining .ordered ∧ (∀ p : Fin 4, s.ports[p].state = .dark ∧ s.ports[p].reportedDark = true)) ∧
      (∀ f, s.bus.line ≠ .sending f) ∧ active.nodeState ≠ .draining .ordered := by
  refine ⟨by decide +kernel, fun f h => ?_, by decide +kernel⟩
  exact absurd h (by simp [draining, active])

/-- For a frame event: IDLE and FAULTED, a frame like the one last sent before its refresh deadline, a PWM port, and a
busy port with a waiting frame. -/
theorem test_witness_port_frame_events :
    (let s := { active with showClock := 5 };
      s.running = true ∧ s.ports[(0 : Fin 4)].frameDeadline = some 5 ∧ reached s.showClock 5 = true ∧
        s.ports[(0 : Fin 4)].state = .idle ∧ s.ports[(0 : Fin 4)].forced = true ∧
        s.config.ports[(0 : Fin 4)].type ≠ .pwm ∧ s.ports[(3 : Fin 4)].state = .idle ∧
        s.ports[(3 : Fin 4)].frameDeadline = some 5 ∧ s.config.ports[(3 : Fin 4)].type = .pwm) ∧
      { port 2 with state := .faulted }.state = .faulted ∧
      (let x := { port 0 with lastSent := some (active.compose 0), refreshDeadline := some 50, forced := false };
        x.state = .idle ∧ x.lastSent = some ((withPort 0 x).compose 0) ∧ x.refreshDeadline = some 50 ∧
          reached 5 50 = false ∧ x.forced = false) ∧
      (let x := { port 2 with state := .awaitEcho, slot := some [] };
        x.state = .awaitEcho ∧ x.forced = true ∧ x.slot ≠ none) := by decide +kernel

theorem test_witness_shifts_end :
    (active.running = true ∧ active.config.ports[(0 : Fin 4)].type = .stream ∧
      active.config.ports[(2 : Fin 4)].type = .confirmed) ∧
      (let s := withPort 0 { port 0 with
          state := .shifting, activity := .shifting, shift := some (Shift.start active.config.ports[0] 0 [warm] 0) };
        let x := s.ports[(0 : Fin 4)];
        x.activity = .shifting ∧ x.state = .shifting ∧ x.checkEcho = true ∧ x.shift.isSome = true ∧
          Pin.s0d ∈ [.s0d, .s1d, .s2d, .s3 0] ∧ (0 : Fin 4) = (match Pin.s0d with
            | .s0d => 0
            | .s1d => 1
            | .s2d | .s2c | .s2e => 2
            | .s3 _ => 3)) ∧
      { port 2 with checkEcho := false }.checkEcho = false ∧
      (let x := (withPort 2 { port 2 with state := .faulted, activity := .shifting }).ports[(2 : Fin 4)];
        x.activity = .shifting ∧ x.state = .faulted) ∧
      (let x := (withPort 2 { port 2 with state := .dark, activity := .shifting }).ports[(2 : Fin 4)];
        x.activity = .shifting ∧ x.state = .dark) ∧
      ((ordered .wake).ports[(0 : Fin 4)].state = .dark ∧
        (ordered .wake).ports[(0 : Fin 4)].activity = .darkShifting) ∧ State.reset.running = false ∧
      ((port 2).activity ≠ .echoWait ∧ (port 2).shift = none ∧ (port 2).state ≠ .dark) ∧
      (withPort 2 { port 2 with activity := .echoWait }).ports[(2 : Fin 4)].activity = .echoWait ∧
      (withPort 2 ((port 2).launch active.config.ports[2] 0 [])).ports[(2 : Fin 4)].shift ≠ none ∧
      (active.config.ports[(3 : Fin 4)].type = .pwm ∧ (5 : Fin 12).val < 3 * active.config.ports[(3 : Fin 4)].pixels ∧
        ¬(6 : Fin 12).val < 3 * active.config.ports[(3 : Fin 4)].pixels) ∧
      (let c := active.config.ports[(0 : Fin 4)];
        c.type = .stream ∧ c.slow = false ∧ { c with slow := true }.slow = true) := by
  decide +kernel

theorem test_witness_echo_checks_and_probes :
    (active.running = true ∧ active.config.ports[(2 : Fin 4)].type = .confirmed) ∧
      (let x := (withPort 2 { port 2 with state := .awaitEcho, activity := .echoWait }).ports[(2 : Fin 4)];
        x.state = .awaitEcho ∧ x.activity = .echoWait ∧ x.failureRun < 2) ∧
      { port 2 with failureRun := 2 }.failureRun = 2 ∧
      (0x5A020001 : BitVec 32) ≠ BitVec.ofNat 32 (0x5A * 2 ^ 24 + 2 * 2 ^ 16 + 0) ∧
      (let x := (withPort 2 { port 2 with
          state := .faulted, activity := .echoWait, probeDeadline := some 0 }).ports[(2 : Fin 4)];
        x.state = .faulted ∧ x.activity = .echoWait ∧ x.probeDeadline = some 0 ∧ reached active.showClock 0 = true) := by
  decide +kernel

theorem test_witness_frames_are_composed :
    (0 < active.config.ports[(0 : Fin 4)].pixels) ∧
      (∀ g ∈ active.config.segments, ¬(g.port = (0 : Fin 4) ∧ g.first ≤ 30 ∧ 30 < g.first + g.count)) ∧
      (let g : Segment := ⟨0, 0, 30, false⟩;
        active.config.segments = [] ++ g :: [] ∧ g.port = (0 : Fin 4) ∧ g.first ≤ 29 ∧ 29 < g.first + g.count) ∧
      layer.look 30 29 = some ⟨255, 0, 0⟩ ∧
      { layer with shape := { shape with effect := .sweep }, phase := 0 }.look 30 0 = none := by decide +kernel

theorem test_witness_breathe_hold_and_fade :
    (let l := { layer with shape := { shape with effect := .breathe, period := 1 }, phase := 1 };
      0 < l.shape.period.toNat ∧ l.phase ≤ l.shape.period.toNat ∧ l.shape.effect = .breathe ∧
        l.phase = l.shape.period.toNat) ∧
      layer.shape.effect = .hold ∧ { shape with effect := .fade }.effect = .fade ∧
      (let l := { layer with
          shape := { shape with effect := .breathe, period := 200, colourA := ⟨200, 40, 0⟩, colourB := ⟨20, 20, 20⟩ }
          phase := 199 };
        l.shape.effect = .breathe ∧ l.shape.period = 200 ∧ l.shape.colourA = ⟨200, 40, 0⟩ ∧
          l.shape.colourB = ⟨20, 20, 20⟩ ∧ l.phase = 199) := by decide +kernel

theorem test_witness_sweep :
    let l := { layer with shape := { shape with effect := .sweep, width := 3 }, phase := 45 }
    l.shape.effect = .sweep ∧ l.shape.period = 100 ∧ l.shape.width = 3 ∧ 0 < l.shape.period.toNat ∧
      l.phase < l.shape.period.toNat ∧ 3 < 10 * l.phase / l.shape.period.toNat ∧
      10 * l.phase / l.shape.period.toNat ≤ 4 ∧ l.phase = 45 := by decide +kernel

theorem test_witness_chase :
    let l := { layer with shape := { shape with effect := .chase, period := 80, width := 2 }, phase := 75 }
    l.shape.effect = .chase ∧ l.shape.period = 80 ∧ l.shape.width = 2 ∧ l.reverse = false ∧
      0 < l.shape.period.toNat ∧ l.phase ≤ l.shape.period.toNat ∧ 0 < 8 ∧ l.phase = 75 := by decide +kernel

end Sys2Proof.Tests
end

section
/-! SUPPORT. O32: a report that finds the outgoing queue full is refused (R61). The rules of a refused request, of an
answered QUERY and of the expired presence timer come first. -/

namespace Sys2Proof.Machine

/-! ## Requests the queue refuses -/

theorem State.takesRequests_iff (s : State) :
    s.takesRequests = true ↔ s.running = true ∧ s.bus.standing = .speaking := by
  simp [State.takesRequests]

theorem SendEntry.answers_of_kind_ne {e : SendEntry} {r : Request} (h : e.kind ≠ r.kind) : e.answers r = false := by
  simp [SendEntry.answers, h]

theorem victim_report {k : SendKind} (hk : k = .status ∨ k = .presence) (es : List SendEntry) : victim k es = none := by
  rcases hk with rfl | rfl <;> rfl

/-- A request that folds into nothing, finds no room and has no victim is refused (R56 to R61). -/
theorem State.request_refused {s : State} {r : Request} (ht : s.takesRequests = true)
    (hn : ∀ e ∈ s.out.entries, e.answers r = false) (hl : 4 ≤ s.out.entries.length)
    (hv : victim r.kind s.out.entries = none) : s.request r = s.raise .sendDropped := by
  have hany : s.out.entries.any (·.answers r) = false := by simpa using hn
  have hroom : ¬s.out.entries.length < 4 := by omega
  simp [State.request, ht, hany, hroom, hv]

/-- A STATUS or PRESENCE request never evicts, so a full queue without its kind refuses it (R61). -/
theorem State.request_report_full {s : State} {k : SendKind} (hk : k = .status ∨ k = .presence)
    (hr : s.running = true) (hs : s.bus.standing = .speaking) (hl : s.out.entries.length = 4)
    (hn : ∀ x ∈ s.out.entries, x.kind ≠ k) : s.request (.report k) = s.raise .sendDropped :=
  State.request_refused (s.takesRequests_iff.2 ⟨hr, hs⟩) (fun x hx => SendEntry.answers_of_kind_ne (hn x hx)) hl.ge
    (victim_report hk _)

/-! ## The two events that request a report -/

theorem exec_queryHandled (s : State) : exec .queryHandled s = .next (queryHandled s) := rfl

theorem exec_presenceTimerExpiry (s : State) : exec .presenceTimerExpiry s = .next (presenceTimerExpiry s) := rfl

/-- A QUERY in the handling slot completes with a STATUS request (R189). -/
theorem queryHandled_of_slot {s : State} {origin target : ZoneNo} {done : Moment} (hr : s.running = true)
    (hq : s.intake.slot = some ⟨⟨origin, .query target⟩, done⟩) :
    queryHandled s = s.complete fun u => u.request (.report .status) := by
  simp [queryHandled, State.handled, hq, hr]

/-- What a handling does is its effect on the state with the slot emptied; no other state matters (R50). -/
theorem State.complete_congr {s : State} {f g : State → State}
    (h : f { s with intake := { s.intake with slot := none } } = g { s with intake := { s.intake with slot := none } }) :
    s.complete f = s.complete g := by
  simp only [State.complete, h]

/-- The presence timer at its deadline runs on by P and requests a PRESENCE (R75). -/
theorem presenceTimerExpiry_of_reached {s : State} {d : Clock} (hr : s.running = true)
    (hd : s.roster.presenceTimer = some d) (hc : reached s.showClock d = true) :
    presenceTimerExpiry s =
      { s with roster := { s.roster with presenceTimer := some (later d (presenceInterval s.config)) } }.request
        (.report .presence) := by
  simp [presenceTimerExpiry, hd, hr, hc]

/-! ## The obligation -/

/-- Settles O32: a refused report goes through `State.request_report_full`; the QUERY's completion requests in the
state with its slot emptied, and the timer has run on before its request is refused, so the raise leaves it running. -/
theorem fullQueueRefusesReports : Obligations.FullQueueRefusesReports := by
  intro s hr hs hl
  refine ⟨fun k hk hn => State.request_report_full hk hr hs hl hn, fun origin target at_ hn hq => ?query,
    fun d hn hd hc => ⟨?expiry, fun u hur huc hut hud => ?again⟩⟩
  case query =>
    rw [exec_queryHandled, queryHandled_of_slot hr hq]
    exact congrArg _ (State.complete_congr (State.request_report_full (.inl rfl) hr hs hl hn))
  case expiry =>
    rw [exec_presenceTimerExpiry, presenceTimerExpiry_of_reached hr hd hc]
    exact congrArg _ (State.request_report_full (.inr rfl) hr hs hl hn)
  case again =>
    have hu : u.roster.presenceTimer = some (later d (presenceInterval s.config)) := by
      simp [hut, later, presenceInterval]
    rw [exec_presenceTimerExpiry, presenceTimerExpiry_of_reached hur hu hud, huc]
    rfl

end Sys2Proof.Machine
end

section
/-! SUPPORT. O38: a band event moves the supply monitor by the table of R88. What a move of the supply state does comes
first, one rule for each outcome: the state stays, or moves with the own cap as it was, or with a changed one. -/

namespace Sys2Proof.Machine

/-! ## The own cap handed on -/

theorem State.handOnCap_same {s : State} {old : Byte} (h : s.supply.ownCap = old) : s.handOnCap old = s := by
  simp [State.handOnCap, h]

theorem State.handOnCap_changed {s : State} {old : Byte} (h : s.supply.ownCap ≠ old) :
    s.handOnCap old = s.formTarget.request (.report .cap) := by
  simp [State.handOnCap, h]

/-! ## A move of the supply state -/

theorem State.raiseIf_decide (s : State) (p : Prop) [Decidable p] (n : Notice) :
    s.raiseIf (decide p) n = if p then s.raise n else s := by
  simp [State.raiseIf]

/-- The supply state `st` is entered, DEEP with its notice; a change of the own cap is not yet handed on (R87, R91). -/
def State.enterSupply (s : State) (st : SupplyState) : State :=
  { s with supply := s.supply.enter st s.config.sagCap s.showClock }.raiseIf (decide (st = SupplyState.deep)) .supplyDeep

@[simp] theorem State.enterSupply_ownCap (s : State) (st : SupplyState) :
    (s.enterSupply st).supply.ownCap = st.cap s.config.sagCap := by
  simp [State.enterSupply, Supply.enter]

theorem State.moveSupply_stays {s : State} {st : SupplyState} (h : st = s.supply.state) : s.moveSupply st = s := by
  simp [State.moveSupply, h]

theorem State.moveSupply_moves {s : State} {st : SupplyState} (h : st ≠ s.supply.state) :
    s.moveSupply st = (s.enterSupply st).handOnCap s.supply.ownCap := by
  simp [State.moveSupply, State.enterSupply, h]

/-- A move between states of one cap hands nothing on (R92). -/
theorem State.moveSupply_same_cap {s : State} {st : SupplyState} (h : st ≠ s.supply.state)
    (hc : st.cap s.config.sagCap = s.supply.ownCap) : s.moveSupply st = s.enterSupply st := by
  rw [State.moveSupply_moves h, State.handOnCap_same (by simpa using hc)]

/-- A move to a state of another cap forms the cap target and requests a CAP (R92). -/
theorem State.moveSupply_new_cap {s : State} {st : SupplyState} (h : st ≠ s.supply.state)
    (hc : st.cap s.config.sagCap ≠ s.supply.ownCap) :
    s.moveSupply st = (s.enterSupply st).formTarget.request (.report .cap) := by
  rw [State.moveSupply_moves h, State.handOnCap_changed (by simpa using hc)]

/-! ## The band event -/

/-- The band the supply has arrived in is stored (R86). -/
def State.storeBand (s : State) (b : Band) : State := { s with supply := { s.supply with band := b } }

theorem State.takeBand_eq_moveSupply (s : State) (b : Band) :
    s.takeBand b = (s.storeBand b).moveSupply (s.supply.state.onBand b) := rfl

/-- A running node takes a band other than the stored one (R86). -/
theorem exec_bandEvent_new_band {s : State} {v : Millivolts} (hr : s.running = true)
    (hb : bandOf s.config.vtSelection v ≠ s.supply.band) :
    exec (.bandEvent v) s = .next (s.takeBand (bandOf s.config.vtSelection v)) := by
  have hexec : exec (.bandEvent v) s = .next (bandEvent v s) := rfl
  rw [hexec]
  simp [bandEvent, hr, hb]

/-! ## The obligation -/

/-- Settles O38: the statement's band, table and cap are those of `bandOf`, `SupplyState.onBand` and `SupplyState.cap`,
and its moved state is the one `State.enterSupply` enters; each clause is then one rule of `State.moveSupply`, in the
state that has stored the band. -/
theorem bandEventsMoveTheSupply : Obligations.BandEventsMoveTheSupply := by
  intro s v hr vt band st cap entered moved
  have hband : bandOf s.config.vtSelection v = band := rfl
  have hst : s.supply.state.onBand band = st := rfl
  have hcap : st.cap s.config.sagCap = cap := rfl
  have hmoved : (s.storeBand band).enterSupply st = moved := State.raiseIf_decide entered (st = .deep) .supplyDeep
  have hexec (hb : band ≠ s.supply.band) :
      exec (.bandEvent v) s = .next ((s.storeBand band).moveSupply st) := by
    rw [exec_bandEvent_new_band hr (hband ▸ hb), State.takeBand_eq_moveSupply, hband, hst]
  refine ⟨fun hb hs => ?stays, fun hb hs hc => ?sameCap, fun hb hs hc => ?newCap⟩
  case stays =>
    rw [hexec hb, State.moveSupply_stays (s := s.storeBand band) hs]
    rfl
  case sameCap =>
    rw [hexec hb, State.moveSupply_same_cap (s := s.storeBand band) hs (hcap.trans hc), hmoved]
  case newCap =>
    rw [hexec hb, State.moveSupply_new_cap (s := s.storeBand band) hs (hcap.trans_ne hc), hmoved]
    rfl

end Sys2Proof.Machine
end

section
/-! SUPPORT. O58: BREATHE, HOLD and FADE cover every path pixel alike. What a linear step gives in numbers comes first,
then the factor of BREATHE, and the look of a layer of each effect. -/

namespace Sys2Proof.Machine

/-! ## Linear steps -/

/-- The part of a difference that `j` of `t` steps take lies between nothing and the whole. -/
theorem mul_tdiv_mem_Icc {d : Int} (hd : 0 ≤ d) {j t : Nat} (hj : j ≤ t) : (d * j).tdiv t ∈ Set.Icc 0 d := by
  lift d to Nat using hd
  have hle : d * j / t ≤ d := Nat.div_le_of_le_mul (by rw [Nat.mul_comm t]; exact Nat.mul_le_mul_left d hj)
  rw [Int.tdiv_eq_ediv_of_nonneg (by positivity)]
  exact ⟨by positivity, by exact_mod_cast hle⟩

/-- A linear step stays in the byte, so it is its formula, truncated toward zero (R140). -/
theorem glide_toNat (a b : Byte) {j t : Nat} (hj : j ≤ t) :
    ((glide a b j t).toNat : Int) = a.toNat + (((b.toNat : Int) - a.toNat) * j).tdiv t := by
  have ha := a.isLt
  have hb := b.isLt
  have hrange : 0 ≤ (a.toNat : Int) + (((b.toNat : Int) - a.toNat) * j).tdiv t ∧
      (a.toNat : Int) + (((b.toNat : Int) - a.toNat) * j).tdiv t < 256 := by
    rcases le_total a.toNat b.toNat with hab | hba
    · obtain ⟨hlow, hhigh⟩ := mul_tdiv_mem_Icc (d := (b.toNat : Int) - a.toNat) (by omega) hj
      omega
    · obtain ⟨hlow, hhigh⟩ := mul_tdiv_mem_Icc (d := (a.toNat : Int) - b.toNat) (by omega) hj
      have hneg : (((b.toNat : Int) - a.toNat) * j).tdiv t = -(((a.toNat : Int) - b.toNat) * j).tdiv t := by
        rw [← Int.neg_tdiv, ← Int.neg_mul, Int.neg_sub]
      omega
  rw [glide, byteOf, BitVec.toNat_ofNat]
  omega

/-- A glide that has taken all its steps stands at its target. -/
theorem glide_all (a b : Byte) {t : Nat} (ht : 0 < t) : glide a b t t = b := by
  have h := glide_toNat a b (le_refl t)
  rw [Int.mul_tdiv_cancel _ (by omega)] at h
  exact BitVec.eq_of_toNat_eq (by omega)

theorem glideColour_toNat (a b : Colour) {j t : Nat} (hj : j ≤ t) :
    ((glideColour a b j t).red.toNat : Int) = a.red.toNat + (((b.red.toNat : Int) - a.red.toNat) * j).tdiv t ∧
    ((glideColour a b j t).green.toNat : Int) =
      a.green.toNat + (((b.green.toNat : Int) - a.green.toNat) * j).tdiv t ∧
    ((glideColour a b j t).blue.toNat : Int) = a.blue.toNat + (((b.blue.toNat : Int) - a.blue.toNat) * j).tdiv t :=
  ⟨glide_toNat _ _ hj, glide_toNat _ _ hj, glide_toNat _ _ hj⟩

@[simp] theorem glideColour_zero (a b : Colour) (t : Nat) : glideColour a b 0 t = a := by simp [glideColour]

theorem glideColour_all (a b : Colour) {t : Nat} (ht : 0 < t) : glideColour a b t t = b := by
  simp [glideColour, glide_all, ht]

/-! ## The factor of BREATHE -/

@[simp] theorem breatheFactor_zero (period : Nat) : breatheFactor 0 period = 0 := by simp [breatheFactor]

theorem breatheFactor_of_rising {phase period : Nat} (h : 2 * phase ≤ period) :
    breatheFactor phase period = 510 * phase / period := if_pos h

theorem breatheFactor_of_falling {phase period : Nat} (h : period < 2 * phase) :
    breatheFactor phase period = 510 * (period - phase) / period := if_neg (by omega)

theorem breatheFactor_period {period : Nat} (h : 0 < period) : breatheFactor period period = 0 := by
  simp [breatheFactor_of_falling (show period < 2 * period by omega)]

theorem breatheFactor_le (phase period : Nat) : breatheFactor phase period ≤ 255 := by
  rcases le_or_gt (2 * phase) period with h | h
  · rw [breatheFactor_of_rising h]
    exact Nat.div_le_of_le_mul (by omega)
  · rw [breatheFactor_of_falling h]
    exact Nat.div_le_of_le_mul (by omega)

theorem breatheFactor_mid {phase period : Nat} (hpos : 0 < period) (h : 2 * phase = period) :
    breatheFactor phase period = 255 := by
  rw [breatheFactor_of_rising h.le, show 510 * phase = 255 * period by omega, Nat.mul_div_cancel _ hpos]

/-- Up to mid-run the factor rises. -/
theorem breatheFactor_rises {p q period : Nat} (hpq : p ≤ q) (hq : 2 * q ≤ period) :
    breatheFactor p period ≤ breatheFactor q period := by
  rw [breatheFactor_of_rising hq, breatheFactor_of_rising (by omega)]
  exact Nat.div_le_div_right (by omega)

/-- Past mid-run the factor falls. -/
theorem breatheFactor_falls {p q period : Nat} (hpq : p ≤ q) (hp : period < 2 * p) :
    breatheFactor q period ≤ breatheFactor p period := by
  rw [breatheFactor_of_falling hp, breatheFactor_of_falling (by omega)]
  exact Nat.div_le_div_right (by omega)

/-! ## The look of a layer, by its effect -/

section
variable {l : Layer} (n i : Nat)

theorem Layer.look_of_hold (h : l.shape.effect = .hold) : l.look n i = some l.shape.colourA := by
  simp [Layer.look, effectLook, h]

theorem Layer.look_of_fade (h : l.shape.effect = .fade) :
    l.look n i = some (glideColour l.shape.colourA l.shape.colourB l.phase l.shape.period.toNat) := by
  simp [Layer.look, effectLook, h]

theorem Layer.look_of_breathe (h : l.shape.effect = .breathe) :
    l.look n i =
      some (glideColour l.shape.colourB l.shape.colourA (breatheFactor l.phase l.shape.period.toNat) 255) := by
  simp [Layer.look, effectLook, h]

theorem Layer.look_of_sweep (h : l.shape.effect = .sweep) :
    l.look n i = sweepLook l.shape l.phase n (effectIndex l.reverse n i) := by
  simp [Layer.look, effectLook, h]

theorem Layer.look_of_chase (h : l.shape.effect = .chase) :
    l.look n i = some (chaseLook l.shape l.phase n (effectIndex l.reverse n i)) := by
  simp [Layer.look, effectLook, h]

end

/-! ## The obligation -/

/-- The table of R142, and the wrap from phase 199. -/
theorem Layer.look_breathe_table {l : Layer} (n i : Nat) (he : l.shape.effect = .breathe)
    (hp : l.shape.period = 200) (ha : l.shape.colourA = ⟨200, 40, 0⟩) (hb : l.shape.colourB = ⟨20, 20, 20⟩) :
    (l.phase = 0 ∨ l.phase = 200 → l.look n i = some ⟨20, 20, 20⟩) ∧
    (l.phase = 50 ∨ l.phase = 150 → l.look n i = some ⟨109, 29, 11⟩) ∧
    (l.phase = 100 → l.look n i = some ⟨200, 40, 0⟩) ∧
    (l.phase = 199 → l.look n i = some (glideColour ⟨20, 20, 20⟩ ⟨200, 40, 0⟩ 2 255)) := by
  rw [Layer.look_of_breathe n i he, hp, ha, hb]
  refine ⟨?ends, ?quarters, ?middle, ?last⟩
  case ends => rintro (h | h) <;> rw [h] <;> decide
  case quarters => rintro (h | h) <;> rw [h] <;> decide
  case middle => intro h; rw [h]; decide
  case last => intro h; rw [h]; decide

/-- Settles O58: the look of each of the three effects is a glide between its two colours, or A itself; the statement's
factor is `breatheFactor`. -/
theorem breatheHoldAndFade : Obligations.BreatheHoldAndFade := by
  refine ⟨fun l n i hpos hphase => ?_, fun l n i he hp ha hb => Layer.look_breathe_table n i he hp ha hb⟩
  intro a b period factor mixed
  refine ⟨fun he => ?breathe, Layer.look_of_hold n i, fun he => ⟨?fade, fun hend => ?fadeEnd⟩⟩
  case breathe =>
    refine ⟨⟨_, Layer.look_of_breathe n i he, glideColour_toNat b a (breatheFactor_le _ _)⟩,
      breatheFactor_zero period, breatheFactor_period hpos, breatheFactor_le _ _, breatheFactor_mid hpos,
      fun p hp hrise => breatheFactor_rises hp hrise, fun p hp hfall => breatheFactor_falls hp hfall, fun hend => ?_⟩
    rw [Layer.look_of_breathe n i he, hend, breatheFactor_period hpos, glideColour_zero]
  case fade => exact ⟨_, Layer.look_of_fade n i he, glideColour_toNat a b hphase⟩
  case fadeEnd => rw [Layer.look_of_fade n i he, hend, glideColour_all _ _ hpos]

end Sys2Proof.Machine
end

section
/-! SUPPORT. O59: SWEEP, whole. The three cases of its look by effect index, and a reversed path. -/

namespace Sys2Proof.Machine

/-! ## The three cases of the look -/

section
variable {sh : Shape} {phase n e : Nat}

theorem sweepLook_of_final (h : phase = sh.period.toNat) : sweepLook sh phase n e = some sh.colourB := if_pos h

theorem sweepLook_of_covered (hp : phase ≠ sh.period.toNat) (he : e < front n phase sh.period.toNat) :
    sweepLook sh phase n e =
      some (if front n phase sh.period.toNat - e ≤ sh.width.toNat then sh.colourA else sh.colourB) := by
  simp [sweepLook, hp, he]

theorem sweepLook_of_uncovered (hp : phase ≠ sh.period.toNat) (he : front n phase sh.period.toNat ≤ e) :
    sweepLook sh phase n e = none := by
  simp [sweepLook, hp, he]

end

@[simp] theorem front_zero (n period : Nat) : front n 0 period = 0 := by simp [front]

/-! ## A reversed path -/

/-- A reversed layer shows at each pixel what the same layer unreversed shows as far from the other end (R139). -/
theorem effectLook_reverse (sh : Shape) (phase n i : Nat) :
    effectLook sh true phase n i = effectLook sh false phase n (n - 1 - i) := by
  cases h : sh.effect <;> simp [effectLook, effectIndex, h]

theorem map_effectLook_reverse (sh : Shape) (phase n : Nat) :
    (List.range n).map (effectLook sh true phase n) = ((List.range n).map (effectLook sh false phase n)).reverse := by
  refine List.ext_getElem (by simp) fun i _ _ => ?_
  simp [effectLook_reverse]

/-! ## The obligation -/

/-- The table of R141: the 10 pixels of an unreversed path, period 100 and width 3. -/
theorem map_sweepLook_table {sh : Shape} (hp : sh.period = 100) (hw : sh.width = 3) :
    let a := some sh.colourA
    let b := some sh.colourB
    (List.range 10).map (sweepLook sh 0 10) = List.replicate 10 none ∧
    (List.range 10).map (sweepLook sh 10 10) = a :: List.replicate 9 none ∧
    (List.range 10).map (sweepLook sh 45 10) = b :: a :: a :: a :: List.replicate 6 none ∧
    (List.range 10).map (sweepLook sh 99 10) = b :: b :: b :: b :: b :: b :: a :: a :: a :: [none] ∧
    (List.range 10).map (sweepLook sh 100 10) = List.replicate 10 b := by
  simp [sweepLook, front, hp, hw, List.range, List.range.loop, List.replicate]

/-- Settles O59: each clause is one case of `sweepLook` at the layer's effect index; a reversed row is the mirror image
of the unreversed one. -/
theorem sweep : Obligations.Sweep := by
  refine ⟨fun l n i he hpos hi => ?_, fun l he hp hw => ?table⟩
  · intro e front
    rw [Layer.look_of_sweep n i he]
    refine ⟨fun hp hc => sweepLook_of_covered hp.ne hc, fun hp hc => sweepLook_of_uncovered hp.ne hc,
      fun h0 => ?start, fun hp hc hw => ?narrow, sweepLook_of_final⟩
    case start => exact sweepLook_of_uncovered (by omega) (by simp [h0])
    case narrow =>
      have hwidth : l.shape.width.toNat = 0 := by simp [hw]
      have htrail : ¬front - e ≤ l.shape.width.toNat := by omega
      exact (sweepLook_of_covered hp.ne hc).trans (congrArg some (if_neg htrail))
  case table =>
    intro a b row hphase
    have hrow : (List.range 10).map (effectLook l.shape false l.phase 10) = row := by
      have hlook : effectLook l.shape false l.phase 10 = sweepLook l.shape l.phase 10 := by
        funext i
        simp [effectLook, effectIndex, he]
      obtain ⟨h0, h10, h45, h99, h100⟩ := map_sweepLook_table hp hw
      rw [hlook]
      rcases hphase with h | h | h | h | h <;> simp only [row, h]
      · exact h0
      · exact h10
      · exact h45
      · exact h99
      · exact h100
    have hlayer : l.look 10 = effectLook l.shape l.reverse l.phase 10 := rfl
    rw [hlayer]
    cases l.reverse
    · exact hrow
    · rw [map_effectLook_reverse, hrow]
      rfl

end Sys2Proof.Machine
end

section
/-! SUPPORT. O60: CHASE, whole. How far past the front an effect index lies, counted round the path, decides its
colour. -/

namespace Sys2Proof.Machine

/-! ## The distance past the front -/

/-- `(e − G) mod N`: how far effect index `e` lies past the front `g` on a path of `n` pixels that wraps round (R143). -/
def chaseOffset (g n e : Nat) : Nat := (((e : Int) - g) % n).toNat

theorem chaseOffset_cast {n : Nat} (hn : 0 < n) (g e : Nat) : (chaseOffset g n e : Int) = ((e : Int) - g) % n :=
  Int.toNat_of_nonneg (Int.emod_nonneg _ (by omega))

theorem chaseOffset_lt {n : Nat} (hn : 0 < n) (g e : Nat) : chaseOffset g n e < n := by
  have h := Int.emod_lt_of_pos ((e : Int) - g) (b := n) (by omega)
  rw [← chaseOffset_cast hn] at h
  omega

/-- That far past the front, round the path, lies the pixel. -/
theorem add_chaseOffset_mod {n e : Nat} (he : e < n) (g : Nat) : (g + chaseOffset g n e) % n = e := by
  zify
  rw [chaseOffset_cast (by omega), Int.add_emod_emod, add_sub_cancel, Int.emod_eq_of_lt (by omega) (by omega)]

/-- The pixel `k` past the front, round the path, has offset `k mod N`. -/
theorem chaseOffset_add_mod {n : Nat} (hn : 0 < n) (g k : Nat) : chaseOffset g n ((g + k) % n) = k % n := by
  zify
  rw [chaseOffset_cast hn]
  push_cast
  rw [Int.emod_sub_emod, add_sub_cancel_left]

/-- The offsets below `band` are those of the `band` pixels that start at the front and wrap round. -/
theorem chaseOffset_lt_iff {n e : Nat} (he : e < n) (g band : Nat) :
    chaseOffset g n e < band ↔ ∃ k, k < band ∧ e = (g + k) % n := by
  constructor
  · exact fun h => ⟨_, h, (add_chaseOffset_mod he g).symm⟩
  · rintro ⟨k, hk, rfl⟩
    rw [chaseOffset_add_mod (by omega)]
    exact (Nat.mod_le k n).trans_lt hk

theorem chaseOffset_eq_zero_iff {n e : Nat} (he : e < n) (g : Nat) : chaseOffset g n e = 0 ↔ e = g % n := by
  simpa using chaseOffset_lt_iff he g 1

/-- A front at the far end of the path stands where it stood at the start. -/
theorem chaseOffset_self (n e : Nat) : chaseOffset n n e = chaseOffset 0 n e := by simp [chaseOffset]

theorem front_period (n : Nat) {period : Nat} (h : 0 < period) : front n period period = n := Nat.mul_div_cancel n h

/-! ## The two cases of the look -/

section
variable {sh : Shape} {phase n e : Nat}

theorem chaseLook_eq (sh : Shape) (phase n e : Nat) :
    chaseLook sh phase n e =
      if chaseOffset (front n phase sh.period.toNat) n e < max sh.width.toNat 1 then sh.colourA else sh.colourB := rfl

theorem chaseLook_of_lt (h : chaseOffset (front n phase sh.period.toNat) n e < max sh.width.toNat 1) :
    chaseLook sh phase n e = sh.colourA := if_pos h

theorem chaseLook_of_le (h : max sh.width.toNat 1 ≤ chaseOffset (front n phase sh.period.toNat) n e) :
    chaseLook sh phase n e = sh.colourB := if_neg h.not_gt

/-- The final look of CHASE is its look at phase 0 (R143). -/
theorem chaseLook_period (h : 0 < sh.period.toNat) :
    chaseLook sh sh.period.toNat n e = chaseLook sh 0 n e := by
  rw [chaseLook_eq, chaseLook_eq, front_period n h, front_zero, chaseOffset_self]

end

theorem effectIndex_lt {n i : Nat} (hi : i < n) (reverse : Bool) : effectIndex reverse n i < n := by
  unfold effectIndex
  split <;> omega

/-! ## The obligation -/

/-- The examples of R143: the 8 pixels of an unreversed path, period 80 and width 2. -/
theorem map_chaseLook_examples {sh : Shape} (hp : sh.period = 80) (hw : sh.width = 2) :
    let a := sh.colourA
    let b := sh.colourB
    (List.range 8).map (chaseLook sh 30 8) = [b, b, b, a, a, b, b, b] ∧
    (List.range 8).map (chaseLook sh 75 8) = [a, b, b, b, b, b, b, a] := by
  simp [chaseLook, front, hp, hw, List.range, List.range.loop]

/-- Settles O60: the offset of the layer's effect index decides its colour, and the clauses on the width compare it with
0 or with the length of the path. -/
theorem chase : Obligations.Chase := by
  refine ⟨fun l n i he hpos hi _ => ?_, fun l he hp hw hr => ?examples⟩
  · intro e front band
    have hen : e < n := effectIndex_lt hi l.reverse
    have hlook : l.look n i = some (chaseLook l.shape l.phase n e) := Layer.look_of_chase n i he
    have hA (h : chaseOffset front n e < band) : l.look n i = some l.shape.colourA :=
      hlook.trans (congrArg some (chaseLook_of_lt h))
    have hB (h : band ≤ chaseOffset front n e) : l.look n i = some l.shape.colourB :=
      hlook.trans (congrArg some (chaseLook_of_le h))
    have hband (hw : l.shape.width = 0) : band = 1 := by simp [band, hw]
    refine ⟨hA, hB, chaseOffset_lt_iff hen front band, fun hw hfront => ?onePixel, fun hw hfront => ?others,
      fun hw => ?wide, fun h0 => ?start, fun hend => ?finish, fun hend => ?final⟩
    case onePixel =>
      have hzero := (chaseOffset_eq_zero_iff hen front).2 hfront
      exact hA (by have := hband hw; omega)
    case others =>
      have hne := mt (chaseOffset_eq_zero_iff hen front).1 hfront
      exact hB (by have := hband hw; omega)
    case wide => exact hA ((chaseOffset_lt (by omega) front e).trans_le (hw.trans (Nat.le_max_left _ _)))
    case start => simp [front, h0]
    case finish =>
      simp only [front, hend]
      exact front_period n hpos
    case final =>
      have hzero : { l with phase := 0 }.look n i = some (chaseLook l.shape 0 n e) := Layer.look_of_chase n i he
      rw [hlook, hzero, hend, chaseLook_period hpos]
  case examples =>
    intro a b
    have hlook (n : Nat) : l.look n = some ∘ chaseLook l.shape l.phase n := by
      funext i
      simp [Layer.look_of_chase n i he, effectIndex, hr]
    obtain ⟨h30, h75⟩ := map_chaseLook_examples hp hw
    rw [hlook, ← List.map_map]
    exact ⟨fun h => by rw [h, h30]; rfl, fun h => by rw [h, h75]; rfl⟩

end Sys2Proof.Machine
end

section
/-! SUPPORT. O1, O2 and the packaging of the step invariants: every command has an effect, a function on states, and what
every effect keeps every step keeps. -/

namespace Sys2Proof

open Machine

/-! ## The effect of a command -/

/-- The state a command leads to. -/
def Instr.effect : Instr → State → State
  | .powerOnStart cause, s => Machine.powerOnStart cause s
  | .resetRelease, s => Machine.resetRelease s
  | .configReadFailure byte0, s => Machine.configReadFailure byte0 s
  | .configReadRetry, s => Machine.configReadRetry s
  | .configReadDone record supply, s => Machine.configReadDone record supply s
  | .wakingEdge, s => Machine.wakingEdge s
  | .wakingEnd supply, s => Machine.wakingEnd supply s
  | .attemptStart gap, s => Machine.attemptStart gap s
  | .attemptSent, s => Machine.attemptSent s
  | .attemptVoided, s => Machine.attemptVoided s
  | .readbackFault position bit, s => Machine.readbackFault position bit s
  | .contentionLost headerBit, s => Machine.contentionLost headerBit s
  | .lineStuckCondition dominant, s => Machine.lineStuckCondition dominant s
  | .silentRecovery recessive, s => Machine.silentRecovery recessive s
  | .quietPeriodExpiry, s => Machine.quietPeriodExpiry s
  | .frameTaken bits, s => Machine.frameTaken bits s
  | .frameVoided bits, s => Machine.frameVoided bits s
  | .frameDiscarded bits, s => Machine.frameDiscarded bits s
  | .frameCutShort bits, s => Machine.frameCutShort bits s
  | .presenceDelivered, s => Machine.presenceDelivered s
  | .capDelivered, s => Machine.capDelivered s
  | .callHandled, s => Machine.callHandled s
  | .cancelHandled, s => Machine.cancelHandled s
  | .handoffHandled, s => Machine.handoffHandled s
  | .themeHandled, s => Machine.themeHandled s
  | .dimHandled, s => Machine.dimHandled s
  | .sleepHandled, s => Machine.sleepHandled s
  | .wakeHandled, s => Machine.wakeHandled s
  | .queryHandled, s => Machine.queryHandled s
  | .clearHandled, s => Machine.clearHandled s
  | .statusHandled, s => Machine.statusHandled s
  | .absenceExpiry zone, s => Machine.absenceExpiry zone s
  | .presenceTimerExpiry, s => Machine.presenceTimerExpiry s
  | .slewStep, s => Machine.slewStep s
  | .dimmerRampStep, s => Machine.dimmerRampStep s
  | .bandEvent supply, s => Machine.bandEvent supply s
  | .settleTimerExpiry, s => Machine.settleTimerExpiry s
  | .releaseTimerExpiry, s => Machine.releaseTimerExpiry s
  | .fallbackExpiry key, s => Machine.fallbackExpiry key s
  | .delayExpiry key, s => Machine.delayExpiry key s
  | .layerPhaseAdvance key, s => Machine.layerPhaseAdvance key s
  | .fadeStep key, s => Machine.fadeStep key s
  | .transitionStep, s => Machine.transitionStep s
  | .portFrameEvent port, s => Machine.portFrameEvent port s
  | .sendFinish port, s => Machine.sendFinish port s
  | .markerShifted port, s => Machine.markerShifted port s
  | .echoArrival port echo, s => Machine.echoArrival port echo s
  | .echoTimeout port, s => Machine.echoTimeout port s
  | .probeDeadline port, s => Machine.probeDeadline port s
  | .darkFrameSent port, s => Machine.darkFrameSent port s
  | .drainTimerExpiry, s => Machine.drainTimerExpiry s
  | .enterAsleep, s => Machine.enterAsleep s
  | .showTick, s => Machine.showTick s
  | .startBit gap, s => Machine.startBit gap s
  | .lineNoise gap, s => Machine.lineNoise gap s

/-- No command faults or is refused: each goes on to its effect (log entry 1). -/
theorem Machine.exec_eq_effect (c : Instr) (s : State) : exec c s = .next (c.effect s) := by cases c <;> rfl

/-- A power-on start leaves the queue of commands alone. -/
@[simp] theorem Machine.powerOnStart_pending (cause : PowerCause) (s : State) : (powerOnStart cause s).pending = s.pending := by
  cases cause <;> rfl

/-- No effect takes a command from the queue or adds one. -/
@[simp] theorem Instr.effect_pending (c : Instr) (s : State) : (c.effect s).pending = s.pending := by
  cases c <;> simp [Instr.effect]

end Sys2Proof

namespace Sys2Proof.Machine

/-! ## Steps -/

theorem step_cons {s : State} {c : Instr} {rest : List Instr} (h : s.pending = c :: rest) :
    step s = exec c { s with pending := rest } := by
  simp [step, h]

theorem step_nil {s : State} (h : s.pending = []) : step s = .next s := by simp [step, h]

/-- A step idles, or is the effect of the front command on the state with the queue's rest. -/
theorem step_next {s t : State} (h : step s = .next t) :
    t = s ∨ ∃ c rest, s.pending = c :: rest ∧ t = c.effect { s with pending := rest } := by
  cases hq : s.pending with
  | nil =>
    rw [step_nil hq] at h
    cases h
    exact .inl rfl
  | cons c rest =>
    rw [step_cons hq, exec_eq_effect] at h
    cases h
    exact .inr ⟨c, rest, rfl, rfl⟩

/-- What does not speak of the queue of commands and is kept by every effect is kept by every step. -/
theorem step_keeps {P : State → Prop} (hq : ∀ s q, P s → P { s with pending := q })
    (he : ∀ (c : Instr) (s : State), P s → P (c.effect s)) : ∀ s t, P s → step s = .next t → P t := by
  intro s t hs ht
  rcases step_next ht with rfl | ⟨c, rest, -, rfl⟩
  · exact hs
  · exact he c _ (hq s rest hs)

/-! ## The obligations -/

/-- Settles O1: the two cases of the queue. -/
theorem stepTakesTheFrontCommand : Obligations.StepTakesTheFrontCommand :=
  fun _ => ⟨fun _ _ h => step_cons h, step_nil⟩

/-- Settles O2: a command goes on to its effect, which leaves the queue alone. -/
theorem everyCommandGoesOnAndLeavesTheQueue : Obligations.EveryCommandGoesOnAndLeavesTheQueue :=
  fun c s => ⟨c.effect s, exec_eq_effect c s, c.effect_pending s⟩

end Sys2Proof.Machine
end

section
/-! SUPPORT. What the commands of the start-up can lead to, said once, and which commands keep the node running. -/

namespace Sys2Proof

open Machine

/-- The commands of the start-up: the power-on start, the read of the record and the end of WAKING. -/
def Instr.startsUp : Instr → Bool
  | .powerOnStart _ | .resetRelease | .configReadFailure _ | .configReadRetry | .configReadDone _ _ | .wakingEnd _ => true
  | _ => false

namespace Machine

/-- What a command of the start-up can lead to (R176 to R180, R186). -/
inductive StartUp (s : State) : State → Prop
  | stays : StartUp s s
  /-- The reader of the record moves on, or the node halts. -/
  | reader {r : Reader} {n : NodeState} (hs : s.nodeState = .starting r) (hn : n = .halted ∨ ∃ r', n = .starting r') :
      StartUp s { s with nodeState := n }
  | powerOn (r : Reader) : StartUp s (State.powerOn r s.pending)
  /-- A good record is taken into use. -/
  | read {record : List Byte} (hg : recordGood record = true) (v : Millivolts) :
      StartUp s ({ s with config := configOf record }.enterActive v)
  | woken (hs : s.nodeState = .waking) (v : Millivolts) : StartUp s (s.enterActive v)

theorem powerOnStart_startUp (cause : PowerCause) (s : State) : StartUp s (powerOnStart cause s) := by
  cases cause <;> exact .powerOn _

theorem resetRelease_startUp (s : State) : StartUp s (resetRelease s) := by
  unfold resetRelease
  split
  next h => exact .reader h (.inr ⟨_, rfl⟩)
  all_goals exact .stays

theorem configReadFailure_startUp (b : Byte) (s : State) : StartUp s (configReadFailure b s) := by
  unfold configReadFailure
  split
  next n h =>
    split
    · exact .reader h (by split <;> simp)
    · exact .stays
  all_goals exact .stays

theorem configReadRetry_startUp (s : State) : StartUp s (configReadRetry s) := by
  unfold configReadRetry
  split
  next h => exact .reader h (.inr ⟨_, rfl⟩)
  all_goals exact .stays

theorem configReadDone_startUp (r : List Byte) (v : Millivolts) (s : State) : StartUp s (configReadDone r v s) := by
  unfold configReadDone
  split
  next h =>
    split
    · split
      next hg => exact .read hg v
      next => exact .reader h (.inl rfl)
    · exact .stays
  all_goals exact .stays

theorem wakingEnd_startUp (v : Millivolts) (s : State) : StartUp s (wakingEnd v s) := by
  unfold wakingEnd
  split
  next h => exact .woken h v
  next => exact .stays

/-- Each command of the start-up leads to one of the outcomes of `StartUp`. -/
theorem effect_startUp {c : Instr} (hc : c.startsUp = true) (s : State) : StartUp s (c.effect s) := by
  cases c
  case powerOnStart cause => exact powerOnStart_startUp cause s
  case resetRelease => exact resetRelease_startUp s
  case configReadFailure b => exact configReadFailure_startUp b s
  case configReadRetry => exact configReadRetry_startUp s
  case configReadDone r v => exact configReadDone_startUp r v s
  case wakingEnd v => exact wakingEnd_startUp v s
  all_goals cases hc

theorem State.running_of_starting {s : State} {r : Reader} (h : s.nodeState = .starting r) : s.running = false := by
  simp [State.running, h]

/-- The reader moves on in a node that does not run before or after. -/
theorem State.running_of_reader {n : NodeState} (s : State) (hn : n = .halted ∨ ∃ r, n = .starting r) :
    { s with nodeState := n }.running = false := by
  rcases hn with rfl | ⟨r, rfl⟩ <;> rfl

@[simp] theorem wakingEdge_running (s : State) : (wakingEdge s).running = s.running := by
  unfold wakingEdge
  split
  next h => simp [State.running, h]
  next => rfl

@[simp] theorem startBit_running (g : Gap) (s : State) : (startBit g s).running = s.running := by
  unfold startBit
  split
  · (repeat' split) <;> rfl
  · exact wakingEdge_running s

@[simp] theorem lineNoise_running (g : Gap) (s : State) : (lineNoise g s).running = s.running := by
  unfold lineNoise
  split
  · (repeat' split) <;> rfl
  · exact wakingEdge_running s

/-- Only a power-on start, the entries to ACTIVE and the entry to ASLEEP change whether the node runs. -/
theorem effect_running {c : Instr} (hc : c.startsUp = false) (ha : c ≠ .enterAsleep) (s : State) :
    (c.effect s).running = s.running := by
  cases c
  case powerOnStart | resetRelease | configReadFailure | configReadRetry | configReadDone | wakingEnd => cases hc
  case enterAsleep => exact absurd rfl ha
  case transitionStep | drainTimerExpiry | layerPhaseAdvance | fadeStep | cancelHandled | sleepHandled | wakeHandled |
    wakingEdge | startBit | lineNoise => simp [Instr.effect]
  all_goals exact State.running_congr (by simp [Instr.effect])

/-- Only the start-up changes the configuration. -/
theorem effect_config {c : Instr} (hc : c.startsUp = false) (s : State) : (c.effect s).config = s.config := by
  cases c
  case powerOnStart | resetRelease | configReadFailure | configReadRetry | configReadDone | wakingEnd => cases hc
  all_goals simp [Instr.effect]

end Machine
end Sys2Proof
end

section
/-! SUPPORT. O4: every command keeps `BusSound`. -/

namespace Sys2Proof.Machine

theorem BusSound.startUp {s t : State} (h : BusSound s) (ht : StartUp s t) : BusSound t := by
  cases ht with
  | stays => exact h
  | reader hs hn => exact h.of_eq rfl rfl ((s.running_of_reader hn).trans (State.running_of_starting hs).symm)
  | powerOn r => exact BusSound.powerOn r _
  | read hg v => exact BusSound.enterActive v
  | woken hs v => exact BusSound.enterActive v

/-- A command that leaves the bus port alone keeps it sound: the node goes on running, or not, under its configuration. -/
theorem BusSound.untouched {s : State} (h : BusSound s) (c : Instr) (hc : c.startsUp = false) (ha : c ≠ .enterAsleep)
    (hb : (c.effect s).bus = s.bus) : BusSound (c.effect s) :=
  h.of_eq hb (effect_config hc s) (effect_running hc ha s)

/-- The commands of the bus port, and the few others that reach it, have a law each; the rest leave it alone. -/
theorem BusSound.effect {s : State} (h : BusSound s) (c : Instr) : BusSound (c.effect s) := by
  cases c
  case powerOnStart | resetRelease | configReadFailure | configReadRetry | configReadDone | wakingEnd =>
    exact h.startUp (effect_startUp rfl s)
  case attemptStart g => exact attemptStart_sound h g
  case attemptSent => exact attemptSent_sound h
  case attemptVoided => exact attemptVoided_sound h
  case readbackFault p b => exact readbackFault_sound h p b
  case contentionLost k => exact contentionLost_sound h k
  case lineStuckCondition n => exact lineStuckCondition_sound h n
  case silentRecovery n => exact silentRecovery_sound h n
  case quietPeriodExpiry => exact quietPeriodExpiry_sound h
  case frameTaken bits => exact (frames_sound h bits).1
  case frameVoided bits => exact (frames_sound h bits).2.1
  case frameDiscarded bits => exact (frames_sound h bits).2.2.1
  case frameCutShort bits => exact (frames_sound h bits).2.2.2
  case wakingEdge => exact wakingEdge_sound h
  case startBit g => exact (edges_sound h g).1
  case lineNoise g => exact (edges_sound h g).2
  case presenceDelivered => exact presenceDelivered_sound h
  case enterAsleep => exact enterAsleep_sound h
  all_goals exact h.untouched _ rfl nofun (by simp [Instr.effect])

/-- Settles O4: `BusSound` does not speak of the queue of commands, and every effect keeps it. -/
theorem stepKeepsTheBusSound : Obligations.StepKeepsTheBusSound :=
  step_keeps (fun _ _ h => h.of_eq rfl rfl rfl) fun c _ h => h.effect c

end Sys2Proof.Machine
end

section
/-! SUPPORT. O11: the configuration in use stays legal. A node that does not run takes no command but those of the
start-up and the edges that wake it. -/

namespace Sys2Proof

/-- The commands that stand for a falling edge, which wakes an ASLEEP node (R186; log entry 13). -/
def Instr.isEdge : Instr → Bool
  | .wakingEdge | .startBit _ | .lineNoise _ => true
  | _ => false

namespace Machine

theorem State.not_draining_of_stopped {s : State} (h : s.running = false) (p : DrainPhase) : s.nodeState ≠ .draining p :=
  fun hn => by simp [State.running, hn] at h

/-- In a node that does not run, only the start-up and the edges have an effect (R22). -/
theorem effect_of_stopped {c : Instr} (hc : c.startsUp = false) (he : c.isEdge = false) {s : State}
    (h : s.running = false) : c.effect s = s := by
  have hrecv : s.receives = false := by simp [State.receives, h]
  have hrest : s.endRest = s := by simp [State.endRest, h]
  have hsend (g : Gap) : s.maySend g = false := by simp [State.maySend, h]
  have hecho (p : Fin 4) : s.awaitsEcho p = false := by simp [State.awaitsEcho, h]
  cases c
  case powerOnStart | resetRelease | configReadFailure | configReadRetry | configReadDone | wakingEnd => cases hc
  case wakingEdge | startBit | lineNoise => cases he
  case drainTimerExpiry => simp [Instr.effect, drainTimerExpiry, State.not_draining_of_stopped h]
  case enterAsleep => simp [Instr.effect, enterAsleep, State.mayFallAsleep, State.not_draining_of_stopped h]
  case frameTaken | frameVoided | frameDiscarded | frameCutShort => simp [Instr.effect, frameTaken, frameVoided, frameDiscarded, frameCutShort, hrecv, hrest]
  case attemptSent | attemptVoided | lineStuckCondition | silentRecovery | quietPeriodExpiry | bandEvent |
    settleTimerExpiry | releaseTimerExpiry | portFrameEvent | sendFinish | markerShifted | echoArrival |
    echoTimeout | probeDeadline | darkFrameSent | showTick =>
    simp [Instr.effect, attemptSent, attemptVoided, lineStuckCondition, silentRecovery, quietPeriodExpiry, bandEvent,
      settleTimerExpiry, releaseTimerExpiry, portFrameEvent, sendFinish, markerShifted, echoArrival, echoTimeout,
      probeDeadline, darkFrameSent, showTick, h, hecho]
  case attemptStart | readbackFault | contentionLost | presenceDelivered | capDelivered | callHandled |
    cancelHandled | handoffHandled | themeHandled | dimHandled | sleepHandled | wakeHandled | queryHandled |
    clearHandled | statusHandled | absenceExpiry | presenceTimerExpiry | slewStep | dimmerRampStep |
    fallbackExpiry | delayExpiry | layerPhaseAdvance | transitionStep | fadeStep =>
    simp only [Instr.effect, attemptStart, readbackFault, contentionLost, presenceDelivered, capDelivered, callHandled, cancelHandled,
      handoffHandled, themeHandled, dimHandled, sleepHandled, wakeHandled, queryHandled, clearHandled,
      statusHandled, absenceExpiry, presenceTimerExpiry, slewStep, dimmerRampStep, fallbackExpiry, delayExpiry,
      layerPhaseAdvance, transitionStep, fadeStep, h, hsend, Bool.false_and, Bool.false_eq_true, if_false]
    (repeat' split) <;> rfl

/-- In a node that does not run, an edge of any sort is one that wakes an ASLEEP node (R186; log entry 13). -/
theorem effect_edge_of_stopped {c : Instr} (he : c.isEdge = true) {s : State} (h : s.running = false) :
    c.effect s = wakingEdge s := by
  cases c
  case wakingEdge => rfl
  case startBit | lineNoise => simp [Instr.effect, startBit, lineNoise, h]
  all_goals cases he

/-! ## The configuration in use -/

/-- The node states in which a record is in use (R178). -/
def State.InUse (s : State) : Prop := s.running = true ∨ s.nodeState = .asleep ∨ s.nodeState = .waking

/-- Only the start-up takes a record into use. -/
theorem State.InUse.of_effect {c : Instr} (hc : c.startsUp = false) {s : State} (ht : (c.effect s).InUse) : s.InUse := by
  cases hr : s.running
  case true => exact .inl hr
  case false =>
    cases he : c.isEdge
    case false => rwa [effect_of_stopped hc he hr] at ht
    case true =>
      rw [effect_edge_of_stopped he hr, wakingEdge] at ht
      split at ht
      next ha => exact .inr (.inl ha)
      next => exact ht

theorem ConfigSound.startUp {s t : State} (h : ConfigSound s) (ht : StartUp s t) : ConfigSound t := by
  cases ht with
  | stays => exact h
  | reader hs hn => rcases hn with rfl | ⟨r, rfl⟩ <;> simp [ConfigSound, State.running]
  | powerOn r => simp [ConfigSound, State.powerOn, State.running]
  | read hg v => exact fun _ => by simpa using configOf_legal hg
  | woken hs v => exact fun _ => by simpa using h (.inr (.inr hs))

/-- A good record gives a legal configuration, and nothing but the start-up changes it or takes one into use. -/
theorem ConfigSound.effect {s : State} (h : ConfigSound s) (c : Instr) : ConfigSound (c.effect s) := by
  cases hc : c.startsUp
  case true => exact h.startUp (effect_startUp hc s)
  case false => exact fun ht => (effect_config hc s).symm ▸ h (State.InUse.of_effect hc ht)

/-- Settles O11: `ConfigSound` does not speak of the queue of commands, and every effect keeps it. -/
theorem stepKeepsTheConfigurationLegal : Obligations.StepKeepsTheConfigurationLegal :=
  step_keeps (fun _ _ h => h) fun c _ h => h.effect c

end Machine
end Sys2Proof
end

section
/-! SUPPORT. O5: every command keeps `QueueSound`. -/

namespace Sys2Proof.Machine

theorem QueueSound.startUp {s t : State} (h : QueueSound s) (ht : StartUp s t) : QueueSound t := by
  cases ht with
  | stays => exact h
  | reader hs hn => exact h.of_frame rfl rfl rfl ((s.running_of_reader hn).trans (State.running_of_starting hs).symm)
  | powerOn r => exact QueueSound.of_empty rfl rfl
  | read hg v => exact QueueSound.enterActive _ v
  | woken hs v => exact QueueSound.enterActive _ v

/-- A command that leaves the queue and the bus port alone keeps it sound. -/
theorem QueueSound.untouched {s : State} (h : QueueSound s) (c : Instr) (hc : c.startsUp = false) (ha : c ≠ .enterAsleep)
    (ho : (c.effect s).out = s.out) (hb : (c.effect s).bus = s.bus) : QueueSound (c.effect s) :=
  h.of_frame ho hb (effect_config hc s) (effect_running hc ha s)

/-! ## The commands of the bus port -/

/-- No attempt is in flight where the standing is not SPEAKING (R21). -/
theorem QueueSound.grounded {s : State} (h : QueueSound s) (hs : s.bus.standing ≠ .speaking) : s.bus.inAttempt = false := by
  by_contra hne
  have hk := h.speaking (by simpa using hne)
  simp [State.takesRequests, hs] at hk

/-- A change of the line watch between two states without an attempt keeps the queue sound. -/
theorem QueueSound.rewatched {s t : State} (h : QueueSound s) (ha : s.bus.inAttempt = false) (ho : t.out = s.out)
    (hc : t.config = s.config) (hs : t.bus.standing = s.bus.standing) (hr : t.running = s.running)
    (ht : t.bus.inAttempt = false) : QueueSound t :=
  h.of_eq ho (by rw [hc]) (by simp [State.takesRequests, hs, hr]) (ht.trans ha.symm)

theorem inFlightEntry_isSome {s : State} (h : QueueSound s) (ha : s.bus.inAttempt = true) :
    ∃ e, s.inFlightEntry = some e := by
  rw [← Option.isSome_iff_exists, State.inFlightEntry, List.find?_isSome]
  have hlen : 0 < (s.out.entries.filter SendEntry.inFlight).length := by simp [h.attempt, ha]
  obtain ⟨e, he⟩ := List.exists_mem_of_length_pos hlen
  exact ⟨e, List.mem_filter.1 he⟩

theorem attemptSent_queue {s : State} (h : QueueSound s) : QueueSound (attemptSent s) := by
  unfold attemptSent
  split
  next hg =>
    simp only [Bool.and_eq_true] at hg
    obtain ⟨e, he⟩ := inFlightEntry_isSome h hg.2
    rw [he]
    refine h.settled afterSent_settles (by simp) (by simp) (by simp) ?_ rfl
    exact congrArg₂ (· && ·) (State.running_congr (by simp)) (by simp)
  next => exact h

theorem attemptVoided_queue {s : State} (h : QueueSound s) : QueueSound (attemptVoided s) := by
  unfold attemptVoided
  split
  · exact State.attemptVoided_queue h
  · exact h

/-- An attempt that ended VOIDED is no longer in flight, whatever the void run came to (R13, R15). -/
theorem State.attemptVoided_inAttempt (s : State) : s.attemptVoided.bus.inAttempt = false := by
  unfold State.attemptVoided State.countVoid
  split <;> simp [State.enterListenOnly, BusPort.quiet, BusPort.inAttempt]

theorem readbackFault_queue {s : State} (h : QueueSound s) (p : Nat) (b : LineBit) : QueueSound (readbackFault p b s) := by
  unfold readbackFault
  split
  · split
    · exact (State.attemptVoided_queue (h.raise .bitFault)).rewatched (State.attemptVoided_inAttempt _) (by simp) (by simp)
        rfl rfl rfl
    · exact h
  · exact h

theorem contentionLost_queue {s : State} (h : QueueSound s) (k : Fin 12) : QueueSound (contentionLost k s) := by
  unfold contentionLost
  split
  · split
    · exact h.settled afterLost_settles rfl rfl rfl rfl rfl
    · exact h
  · exact h

theorem lineStuckCondition_queue {s : State} (h : QueueSound s) (n : Nanos) : QueueSound (lineStuckCondition n s) := by
  unfold lineStuckCondition
  split
  · exact QueueSound.of_empty (State.discardQueue_entries _) (by simp [BusPort.silence, BusPort.inAttempt])
  · exact h

theorem silentRecovery_queue {s : State} (h : QueueSound s) (n : Nanos) : QueueSound (silentRecovery n s) := by
  unfold silentRecovery
  split
  next hg =>
    simp only [Bool.and_eq_true, decide_eq_true_eq] at hg
    exact QueueSound.of_empty (h.empty (by simp [State.takesRequests, hg.1.2])) rfl
  next => exact h

theorem quietPeriodExpiry_queue {s : State} (h : QueueSound s) : QueueSound (quietPeriodExpiry s) := by
  unfold quietPeriodExpiry
  split
  next hg =>
    simp only [Bool.and_eq_true, decide_eq_true_eq] at hg
    split
    · exact h.toSpeaking hg.1.2
    · exact h.of_eq rfl rfl rfl rfl
  next => exact h

theorem QueueSound.endRest {s : State} (h : QueueSound s) : QueueSound s.endRest := by
  unfold State.endRest
  split
  next hg =>
    simp only [Bool.and_eq_true, decide_eq_true_eq] at hg
    exact h.rewatched (by simp [BusPort.inAttempt, hg.2]) (by simp) (by simp) rfl rfl rfl
  next => exact h

theorem receives_iff {s : State} :
    s.receives = true ↔ s.running = true ∧ s.bus.standing ≠ .silent ∧ s.bus.line = .receiving := by
  simp [State.receives, and_assoc]

theorem frames_queue {s : State} (h : QueueSound s) (bits : List LineBit) :
    QueueSound (frameTaken bits s) ∧ QueueSound (frameVoided bits s) ∧ QueueSound (frameDiscarded bits s) ∧
      QueueSound (frameCutShort bits s) := by
  have hrest := h.endRest
  unfold frameTaken frameVoided frameDiscarded frameCutShort
  refine ⟨?taken, ?voided, ?discarded, ?cut⟩
  all_goals split <;> [split; exact h]
  all_goals try exact hrest
  case taken hg =>
    refine (h.handOn _ _).endFrame ?_ _ _
    simpa [State.receives, State.running] using hg
  case voided hg => exact h.endFrame hg _ _
  case discarded hg =>
    split
    · exact h.endFrame hg _ _
    · exact h
  case cut hg =>
    split
    · exact h.rewatched (by simp [BusPort.inAttempt, (receives_iff.1 hg).2.2]) (by simp) (by simp) rfl rfl rfl
    · exact h.endFrame hg _ _

theorem edges_queue {s : State} (h : QueueSound s) (g : Gap) : QueueSound (startBit g s) ∧ QueueSound (lineNoise g s) := by
  have hw : QueueSound (wakingEdge s) := h.untouched .wakingEdge rfl nofun (by simp [Instr.effect]) (by simp [Instr.effect])
  have hsilent (hs : s.bus.standing = .silent) : QueueSound s.silentEdge :=
    h.rewatched (h.grounded (by simp [hs])) (by simp) (by simp) rfl rfl rfl
  unfold startBit lineNoise
  refine ⟨?start, ?noise⟩
  all_goals split <;> [split; exact hw]
  case start.isTrue.isTrue hs => exact hsilent hs
  case noise.isTrue.isTrue hs => exact hsilent hs
  case start.isTrue.isFalse =>
    split
    next hi => exact h.rewatched (BusPort.inAttempt_of_idleAt hi).1 (by simp) (by simp) rfl rfl rfl
    next => exact h
  case noise.isTrue.isFalse =>
    split
    next hi =>
      simp only [Bool.and_eq_true, BusPort.isOutside] at hi
      refine h.rewatched ?_ (by simp) (by simp) rfl rfl rfl
      unfold BusPort.inAttempt
      split <;> simp_all
    next => exact h

/-! ## The commands that request or raise -/

/-- A state that differs from a sound one by a raise, and where the queue does not look, is sound. -/
theorem QueueSound.of_raise {s t : State} (h : QueueSound s) (n : Notice) (ho : t.out = s.out ∨ t.out = (s.raise n).out)
    (hb : t.bus = s.bus) (hc : t.config = s.config) (hr : t.running = s.running) : QueueSound t := by
  rcases ho with ho | ho
  · exact h.of_frame ho hb hc hr
  · exact (h.raise n).of_frame ho (by simpa using hb) (by simpa using hc) hr

theorem State.post_out (s : State) (p : Fin 4) (f : PixelFrame) :
    (s.post p f).out = s.out ∨ (s.post p f).out = (s.raise .frameSkipped).out := by
  unfold State.post State.raiseIf
  dsimp only
  (repeat' split) <;> first
    | exact .inl rfl
    | exact .inr rfl

theorem portFrameEvent_queue {s : State} (h : QueueSound s) (p : Fin 4) : QueueSound (portFrameEvent p s) := by
  refine h.of_raise .frameSkipped ?_ (by simp) (by simp) (State.running_congr (by simp))
  unfold portFrameEvent State.frameEvent
  dsimp only
  (repeat' split) <;> first
    | exact State.post_out _ _ _
    | exact .inl rfl

theorem State.echoFailed_out (s : State) (p : Fin 4) :
    (s.echoFailed p).out = s.out ∨ (s.echoFailed p).out = (s.raise .portFault).out := by
  unfold State.echoFailed
  dsimp only
  (repeat' split) <;> first
    | exact .inl rfl
    | exact .inr rfl

theorem echo_queue {s : State} (h : QueueSound s) (p : Fin 4) (e : BitVec 32) :
    QueueSound (echoArrival p e s) ∧ QueueSound (echoTimeout p s) := by
  refine ⟨h.of_raise .portFault ?_ (by simp) (by simp) (State.running_congr (by simp)),
    h.of_raise .portFault ?_ (by simp) (by simp) (State.running_congr (by simp))⟩
  · unfold echoArrival
    dsimp only
    (repeat' split) <;> first
      | exact State.echoFailed_out s p
      | exact .inl rfl
  · unfold echoTimeout
    split
    · exact State.echoFailed_out s p
    · exact .inl rfl

theorem QueueSound.deliverPresence {s : State} (h : QueueSound s) (i : Fin 31) (k : PeerKind) (c : Byte) :
    QueueSound (s.deliverPresence i k c) := by
  have hanswer {t : State} (ht : QueueSound t) : QueueSound t.answerNewcomer := by
    unfold State.answerNewcomer
    split
    · exact ht
    · exact ht.report _ (by decide)
  have hends {t : State} (ht : QueueSound t) : QueueSound (if t.endsQuiet k then t.toSpeaking else t) := by
    split
    next hg =>
      simp only [State.endsQuiet, Bool.and_eq_true, decide_eq_true_eq] at hg
      exact ht.toSpeaking hg.1.1
    next => exact ht
  have hset : QueueSound (s.setPeer i (some (s.heardPeer k c))).formTarget := h.same rfl rfl rfl rfl
  unfold State.deliverPresence
  refine hends ?_
  split
  · exact hanswer hset
  · exact hset

theorem presenceDelivered_queue {s : State} (h : QueueSound s) : QueueSound (presenceDelivered s) := by
  unfold presenceDelivered
  split
  · split
    · refine QueueSound.deliverPresence ?_ _ _ _
      exact h.same rfl rfl rfl rfl
    · exact h
  · exact h

theorem absenceExpiry_queue {s : State} (h : QueueSound s) (i : Fin 31) : QueueSound (absenceExpiry i s) := by
  unfold absenceExpiry
  split
  · split
    · have hset : QueueSound (s.setPeer i none) := h.same rfl rfl rfl rfl
      exact (hset.signalAbsence _).same rfl rfl rfl rfl
    · exact h
  · exact h

theorem presenceTimerExpiry_queue {s : State} (h : QueueSound s) : QueueSound (presenceTimerExpiry s) := by
  unfold presenceTimerExpiry
  split
  · split
    · refine QueueSound.report ?_ .presence (by decide)
      exact h.same rfl rfl rfl rfl
    · exact h
  · exact h

theorem callHandled_queue {s : State} (h : QueueSound s) : QueueSound (callHandled s) := by
  unfold callHandled
  (repeat' split)
  · exact h.complete fun t ht => ht.settleCall _ _ _ _
  all_goals exact h

theorem cancelHandled_queue {s : State} (h : QueueSound s) : QueueSound (cancelHandled s) := by
  unfold cancelHandled
  (repeat' split)
  · refine h.complete fun t ht => QueueSound.drainCheck ?_
    exact ht.withdraw _ rfl rfl rfl rfl rfl
  all_goals exact h

theorem handoffHandled_queue {s : State} (h : QueueSound s) : QueueSound (handoffHandled s) := by
  unfold handoffHandled
  (repeat' split)
  · exact h.complete fun t ht => ht.settleHandoff _ _ _
  all_goals exact h

theorem queryHandled_queue {s : State} (h : QueueSound s) : QueueSound (queryHandled s) := by
  unfold queryHandled
  (repeat' split)
  · exact h.complete fun t ht => ht.report _ (by decide)
  all_goals exact h

theorem supply_queue {s : State} (h : QueueSound s) (v : Millivolts) :
    QueueSound (bandEvent v s) ∧ QueueSound (settleTimerExpiry s) ∧ QueueSound (releaseTimerExpiry s) := by
  unfold bandEvent settleTimerExpiry releaseTimerExpiry
  refine ⟨?band, ?settle, ?release⟩
  case band =>
    dsimp only
    split
    · exact h.takeBand _
    · exact h
  case settle =>
    split
    · exact (h.moveSupply _).raise _
    · exact h
  case release =>
    split
    · exact h.moveSupply _
    · exact h

theorem cueDeadlines_queue {s : State} (h : QueueSound s) (k : CueKey) :
    QueueSound (fallbackExpiry k s) ∧ QueueSound (delayExpiry k s) := by
  unfold fallbackExpiry delayExpiry
  refine ⟨?fallback, ?delay⟩
  case fallback =>
    (repeat' split)
    · exact h.enterDelaying _
    all_goals exact h
  case delay =>
    (repeat' split)
    · exact h.startCue _
    all_goals exact h

theorem layerPhaseAdvance_queue {s : State} (h : QueueSound s) (k : CueKey) : QueueSound (layerPhaseAdvance k s) := by
  unfold layerPhaseAdvance
  split
  · split
    · exact ((h.setLayers _).checkDue _).drainCheck
    · exact h
  · exact h

theorem enterAsleep_queue {s : State} (h : QueueSound s) : QueueSound (enterAsleep s) := by
  unfold enterAsleep
  split
  · exact QueueSound.of_empty rfl rfl
  · exact h

/-! ## The obligation -/

/-- The commands of the bus port and the queue, and the few others that reach it, have a law each; the rest leave it alone. -/
theorem QueueSound.effect {s : State} (h : QueueSound s) (c : Instr) : QueueSound (c.effect s) := by
  cases c
  case powerOnStart | resetRelease | configReadFailure | configReadRetry | configReadDone | wakingEnd =>
    exact h.startUp (effect_startUp rfl s)
  case attemptStart g => exact attemptStart_queue h g
  case attemptSent => exact attemptSent_queue h
  case attemptVoided => exact attemptVoided_queue h
  case readbackFault p b => exact readbackFault_queue h p b
  case contentionLost k => exact contentionLost_queue h k
  case lineStuckCondition n => exact lineStuckCondition_queue h n
  case silentRecovery n => exact silentRecovery_queue h n
  case quietPeriodExpiry => exact quietPeriodExpiry_queue h
  case frameTaken bits => exact (frames_queue h bits).1
  case frameVoided bits => exact (frames_queue h bits).2.1
  case frameDiscarded bits => exact (frames_queue h bits).2.2.1
  case frameCutShort bits => exact (frames_queue h bits).2.2.2
  case startBit g => exact (edges_queue h g).1
  case lineNoise g => exact (edges_queue h g).2
  case presenceDelivered => exact presenceDelivered_queue h
  case absenceExpiry i => exact absenceExpiry_queue h i
  case presenceTimerExpiry => exact presenceTimerExpiry_queue h
  case callHandled => exact callHandled_queue h
  case cancelHandled => exact cancelHandled_queue h
  case handoffHandled => exact handoffHandled_queue h
  case queryHandled => exact queryHandled_queue h
  case bandEvent v => exact (supply_queue h v).1
  case settleTimerExpiry => exact (supply_queue h 0).2.1
  case releaseTimerExpiry => exact (supply_queue h 0).2.2
  case fallbackExpiry k => exact (cueDeadlines_queue h k).1
  case delayExpiry k => exact (cueDeadlines_queue h k).2
  case layerPhaseAdvance k => exact layerPhaseAdvance_queue h k
  case portFrameEvent p => exact portFrameEvent_queue h p
  case echoArrival p e => exact (echo_queue h p e).1
  case echoTimeout p => exact (echo_queue h p 0).2
  case enterAsleep => exact enterAsleep_queue h
  all_goals exact h.untouched _ rfl nofun (by simp [Instr.effect]) (by simp [Instr.effect])

/-- Settles O5: `QueueSound` does not speak of the queue of commands, and every effect keeps it. -/
theorem stepKeepsTheQueueSound : Obligations.StepKeepsTheQueueSound :=
  step_keeps (fun _ _ h => h.of_frame rfl rfl rfl rfl) fun c _ h => h.effect c

end Sys2Proof.Machine
end

section
/-! SUPPORT. What the completion of a handling can lead to, said once for the ten commands that complete one (R50). -/

namespace Sys2Proof

open Machine

/-- The commands that complete a handling. -/
def Instr.handles : Instr → Bool
  | .callHandled | .cancelHandled | .handoffHandled | .themeHandled | .dimHandled | .sleepHandled | .wakeHandled
  | .queryHandled | .clearHandled | .statusHandled => true
  | _ => false

namespace Machine

/-- What an order from `origin` does when its handling completes. -/
def Order.effect (origin : ZoneNo) : Order → State → State
  | .wake, s => s.wake
  | .call tag route shape startDelay, s => s.settleCall ⟨origin, tag⟩ route shape startDelay
  | .cancel from_ tag mode fadeTime, s => (s.cancel from_ tag mode fadeTime).drainCheck
  | .handoff from_ tag route, s => s.settleHandoff origin ⟨from_, tag⟩ route
  | .theme colour level time, s => s.setTheme ⟨colour, level⟩ time.toNat
  | .dim level time, s => { s with level := s.level.dim level time.toNat s.showClock }
  | .sleep drainTime, s => s.sleep drainTime
  | .query _, s => s.request (.report .status)
  | .status _, s => s
  | .clear _ mask, s => s.clearNotices mask

/-- A command that completes a handling has no effect, or completes that of the order in the slot (R50). -/
theorem effect_handled {c : Instr} (hc : c.handles = true) (s : State) :
    c.effect s = s ∨
      s.running = true ∧ ∃ e, s.handled = some e ∧ c.effect s = s.complete (e.order.effect e.origin) := by
  cases c
  case callHandled | cancelHandled | handoffHandled | themeHandled | dimHandled | sleepHandled | wakeHandled |
    queryHandled | clearHandled | statusHandled =>
    simp only [Instr.effect, callHandled, cancelHandled, handoffHandled, themeHandled, dimHandled, sleepHandled,
      wakeHandled, queryHandled, clearHandled, statusHandled]
    split
    next he =>
      split
      next hr => exact .inr ⟨hr, _, he, rfl⟩
      next => exact .inl rfl
    next => exact .inl rfl
  all_goals cases hc

@[simp] theorem Order.effect_running (z : ZoneNo) (o : Order) (s : State) : (o.effect z s).running = s.running := by
  cases o
  case cancel => simpa [Order.effect] using State.running_congr (by simp)
  case sleep | wake => simp [Order.effect]
  all_goals exact State.running_congr (by simp [Order.effect])

@[simp] theorem Order.effect_intake (z : ZoneNo) (o : Order) (s : State) : (o.effect z s).intake = s.intake := by
  cases o <;> simp [Order.effect]

@[simp] theorem Order.effect_config (z : ZoneNo) (o : Order) (s : State) : (o.effect z s).config = s.config := by
  cases o <;> simp [Order.effect]

@[simp] theorem Order.effect_showClock (z : ZoneNo) (o : Order) (s : State) : (o.effect z s).showClock = s.showClock := by
  cases o <;> simp [Order.effect]

@[simp] theorem Order.effect_roster (z : ZoneNo) (o : Order) (s : State) : (o.effect z s).roster = s.roster := by
  cases o <;> simp [Order.effect]

@[simp] theorem Order.effect_supply (z : ZoneNo) (o : Order) (s : State) : (o.effect z s).supply = s.supply := by
  cases o <;> simp [Order.effect]

end Machine
end Sys2Proof
end

section
/-! SUPPORT. O6: every command keeps `RosterSound`. -/

namespace Sys2Proof.Machine

theorem RosterSound.startUp {s t : State} (h : RosterSound s) (ht : StartUp s t) : RosterSound t := by
  cases ht with
  | stays => exact h
  | reader hs hn => exact h.of_frame rfl rfl rfl ((s.running_of_reader hn).trans (State.running_of_starting hs).symm)
  | powerOn r => exact RosterSound.powerOn r _
  | read hg v => exact RosterSound.enterActive _ v
  | woken hs v => exact RosterSound.enterActive _ v

/-- A command that leaves intake and roster alone keeps them sound. -/
theorem RosterSound.untouched {s : State} (h : RosterSound s) (c : Instr) (hc : c.startsUp = false) (ha : c ≠ .enterAsleep)
    (hi : (c.effect s).intake = s.intake) (hr : (c.effect s).roster = s.roster) : RosterSound (c.effect s) :=
  h.of_frame hi hr (effect_config hc s) (effect_running hc ha s)

theorem RosterSound.handled {s : State} (h : RosterSound s) {c : Instr} (hc : c.handles = true) :
    RosterSound (c.effect s) := by
  rcases effect_handled hc s with he | ⟨hr, e, -, he⟩
  · rwa [he]
  · rw [he]
    exact h.complete hr (by simp) (by simp) (by simp) (by simp)

/-- A SENT PRESENCE is stamped; no entry and no timer of the roster changes (R76). -/
theorem attemptSent_entries (s : State) : (attemptSent s).roster.entries = s.roster.entries ∧
    (attemptSent s).roster.presenceTimer = s.roster.presenceTimer := by
  unfold attemptSent State.presenceSent
  (repeat' split) <;> simp

/-- The presence timer's expiry changes no entry of the roster (R75). -/
theorem presenceTimerExpiry_entries (s : State) : (presenceTimerExpiry s).roster.entries = s.roster.entries := by
  unfold presenceTimerExpiry
  (repeat' split) <;> simp

theorem attemptSent_roster {s : State} (h : RosterSound s) : RosterSound (attemptSent s) := by
  obtain ⟨he, ht⟩ := attemptSent_entries s
  exact h.of_eq (by simp) he (by rw [ht]) (by simp) (State.running_congr (by simp))

theorem frameTaken_roster {s : State} (h : RosterSound s) (bits : List LineBit) : RosterSound (frameTaken bits s) := by
  unfold frameTaken
  split
  · split
    next hg =>
      have hr := (receives_iff.1 hg).1
      have ht : RosterSound (s.raiseIf (decide (headerOrigin (rxHeader bits) = s.config.zone)) .twinZone) :=
        h.of_frame (by simp) (by simp) (by simp) (State.running_congr (by simp))
      have hr' := (State.running_congr (s := s)
        (t := s.raiseIf (decide (headerOrigin (rxHeader bits) = s.config.zone)) .twinZone) (by simp)).trans hr
      have ha : RosterSound (s.handOn (rxHeader bits) (rxBody bits)) :=
        (ht.refresh hr' _).accept ((State.running_congr (by simp)).trans hr) _ _
      exact ha.of_frame (by simp) (by simp) (by simp) (State.running_congr (by simp))
    next => exact h.of_frame (by simp) (by simp) (by simp) (State.running_congr (by simp))
  · exact h

/-- A delivered frame of another zone sets that zone's entry, heard from now (R70, R71). -/
theorem RosterSound.heard {s t : State} (h : RosterSound s) (hr : s.running = true) (i : Fin 31) (k : PeerKind) (c : Byte)
    (hi : i.val ≠ s.config.zone.toNat) (ht : t.roster = (s.setPeer i (some (s.heardPeer k c))).roster)
    (hin : t.intake = s.intake) (hc : t.config = s.config) (hn : t.nodeState = s.nodeState) : RosterSound t :=
  h.setPeer i _ hin (by rw [ht]; rfl) (by rw [ht]; rfl) hc ((State.running_congr hn).trans hr) hr (fun _ => hi)
    (by rintro _ ⟨⟩; rfl)

theorem State.deliverPresence_roster (s : State) (i : Fin 31) (k : PeerKind) (c : Byte) :
    (s.deliverPresence i k c).roster = (s.setPeer i (some (s.heardPeer k c))).roster := by
  unfold State.deliverPresence
  dsimp only
  (repeat' split) <;> simp

theorem delivered_roster {s : State} (h : RosterSound s) :
    RosterSound (presenceDelivered s) ∧ RosterSound (capDelivered s) := by
  unfold presenceDelivered capDelivered
  constructor
  · split
    next i k c rest hi =>
      split
      next hr =>
        obtain ⟨hb, hz⟩ := h.withInbox hr hi
        exact hb.heard hr i k c hz (State.deliverPresence_roster _ i k c) (by simp) (by simp) (by simp)
      next => exact h
    next => exact h
  · split
    next i c rest hi =>
      split
      next hr =>
        obtain ⟨hb, hz⟩ := h.withInbox hr hi
        exact hb.heard hr i _ c hz rfl (by simp) (by simp) (by simp)
      next => exact h
    next => exact h

theorem absenceExpiry_roster {s : State} (h : RosterSound s) (i : Fin 31) : RosterSound (absenceExpiry i s) := by
  unfold absenceExpiry
  split
  · split
    next hg =>
      simp only [Bool.and_eq_true] at hg
      exact h.setPeer i none (by simp) (by simp) (by simp) (by simp) ((State.running_congr (by simp)).trans hg.1) hg.1
        nofun nofun
    next => exact h
  · exact h

theorem presenceTimerExpiry_roster {s : State} (h : RosterSound s) : RosterSound (presenceTimerExpiry s) := by
  unfold presenceTimerExpiry
  split
  next d hd =>
    split
    · exact h.of_eq (by simp) (by simp) (by simp [hd]) (by simp) (State.running_congr (by simp))
    · exact h
  next => exact h

theorem enterAsleep_roster {s : State} (h : RosterSound s) : RosterSound (enterAsleep s) := by
  unfold enterAsleep
  split
  · constructor <;> simp [State.fallAsleep, Intake.empty, State.running]
  · exact h

/-- The commands of the intake and the roster have a law each; the rest leave both alone. -/
theorem RosterSound.effect {s : State} (h : RosterSound s) (c : Instr) : RosterSound (c.effect s) := by
  cases c
  case powerOnStart | resetRelease | configReadFailure | configReadRetry | configReadDone | wakingEnd =>
    exact h.startUp (effect_startUp rfl s)
  case callHandled | cancelHandled | handoffHandled | themeHandled | dimHandled | sleepHandled | wakeHandled |
    queryHandled | clearHandled | statusHandled => exact h.handled rfl
  case attemptSent => exact attemptSent_roster h
  case frameTaken bits => exact frameTaken_roster h bits
  case presenceDelivered => exact (delivered_roster h).1
  case capDelivered => exact (delivered_roster h).2
  case absenceExpiry i => exact absenceExpiry_roster h i
  case presenceTimerExpiry => exact presenceTimerExpiry_roster h
  case enterAsleep => exact enterAsleep_roster h
  all_goals exact h.untouched _ rfl nofun (by simp [Instr.effect]) (by simp [Instr.effect])

/-- Settles O6: `RosterSound` does not speak of the queue of commands, and every effect keeps it. -/
theorem stepKeepsTheRosterSound : Obligations.StepKeepsTheRosterSound :=
  step_keeps (fun _ _ h => h.of_frame rfl rfl rfl rfl) fun c _ h => h.effect c

end Sys2Proof.Machine
end

section
/-! SUPPORT. O7: every command keeps the level unit and the supply monitor sound. -/

namespace Sys2Proof.Machine

/-- The level unit and the supply monitor are sound. -/
def OutputSound (s : State) : Prop := LevelSound s ∧ SupplySound s

theorem OutputSound.of_frame {s t : State} (h : OutputSound s) (hl : t.level = s.level) (hu : t.supply = s.supply)
    (he : t.roster.entries = s.roster.entries) (hc : t.config = s.config) (hr : t.running = s.running) : OutputSound t :=
  ⟨h.1.of_frame hl hu hc he hr, h.2.of_frame hu (by rw [hc]) hr⟩

theorem OutputSound.startUp {s t : State} (h : OutputSound s) (ht : StartUp s t) : OutputSound t := by
  cases ht with
  | stays => exact h
  | reader hs hn =>
    exact h.of_frame rfl rfl rfl rfl ((s.running_of_reader hn).trans (State.running_of_starting hs).symm)
  | powerOn r => exact ⟨LevelSound.powerOn r _, SupplySound.powerOn r _⟩
  | read hg v => exact enterActive_sound _ v
  | woken hs v => exact enterActive_sound _ v

/-- A command that leaves level, supply and roster entries alone keeps level unit and supply monitor sound. -/
theorem OutputSound.untouched {s : State} (h : OutputSound s) (c : Instr) (hc : c.startsUp = false)
    (ha : c ≠ .enterAsleep) (hl : (c.effect s).level = s.level) (hu : (c.effect s).supply = s.supply)
    (he : (c.effect s).roster.entries = s.roster.entries) : OutputSound (c.effect s) :=
  h.of_frame hl hu he (effect_config hc s) (effect_running hc ha s)

/-! ## The roster -/

theorem frameTaken_output {s : State} (h : OutputSound s) (bits : List LineBit) : OutputSound (frameTaken bits s) := by
  unfold frameTaken
  split
  · split
    · have hcaps := refresh_caps
        (s.raiseIf (decide (headerOrigin (rxHeader bits) = s.config.zone)) .twinZone) (headerOrigin (rxHeader bits))
      have hr : ((s.handOn (rxHeader bits) (rxBody bits)).endFrame .quiet false).running = s.running :=
        State.running_congr (by simp)
      refine ⟨h.1.of_eq (by simp) (by simp) (target_congr (by simp) (by simp) ?_) hr, h.2.of_frame (by simp) (by simp) hr⟩
      simpa [State.handOn] using hcaps
    · exact h.of_frame (by simp) (by simp) (by simp) (by simp) (State.running_congr (by simp))
  · exact h

/-- A change of the roster's entries with the cap target formed after it leaves the level unit sound (R77). -/
theorem OutputSound.formed {s t : State} (h : OutputSound s) (hr : s.running = true) (ht : t.level = s.level)
    (hu : t.supply = s.supply) (hc : t.config = s.config) (hn : t.nodeState = s.nodeState) : OutputSound t.formTarget := by
  have hrt : t.running = true := (State.running_congr hn).trans hr
  have hcore : LevelCore t := by
    obtain ⟨happlied, hstopped, hramp⟩ := h.1.core
    constructor <;> simp_all
  exact ⟨hcore.formTarget hrt, h.2.of_frame hu (by simp [hc]) (hrt.trans hr.symm)⟩

theorem delivered_output {s : State} (h : OutputSound s) :
    OutputSound (presenceDelivered s) ∧ OutputSound (capDelivered s) := by
  unfold presenceDelivered capDelivered
  constructor
  · split
    next i k c rest hi =>
      split
      next hr =>
        have hf : OutputSound ((s.withInbox rest).setPeer i (some ((s.withInbox rest).heardPeer k c))).formTarget :=
          h.formed hr (by simp) (by simp) (by simp) (by simp)
        unfold State.deliverPresence
        dsimp only
        (repeat' split) <;>
          exact hf.of_frame (by simp) (by simp) (by simp) (by simp) (State.running_congr (by simp))
      next => exact h
    next => exact h
  · split
    next i c rest hi =>
      split
      next hr => exact h.formed hr (by simp) (by simp) (by simp) (by simp)
      next => exact h
    next => exact h

theorem absenceExpiry_output {s : State} (h : OutputSound s) (i : Fin 31) : OutputSound (absenceExpiry i s) := by
  unfold absenceExpiry
  split
  · split
    next hg =>
      simp only [Bool.and_eq_true] at hg
      exact h.formed hg.1 (by simp) (by simp) (by simp) (by simp)
    next => exact h
  · exact h

/-! ## The level unit -/

theorem handled_output {s : State} (h : OutputSound s) {c : Instr} (hc : c.handles = true) : OutputSound (c.effect s) := by
  rcases effect_handled hc s with he | ⟨hr, e, -, he⟩
  · rwa [he]
  · rw [he]
    have hs : OutputSound { s with intake := { s.intake with slot := none } } := h.of_frame rfl rfl rfl rfl rfl
    have hf : OutputSound (e.order.effect e.origin { s with intake := { s.intake with slot := none } }) := by
      cases e.order
      case dim level time => exact ⟨dim_sound hs.1 hr level time.toNat, hs.2.of_frame rfl rfl rfl⟩
      all_goals exact hs.of_frame (by simp [Order.effect]) (by simp) (by simp) (by simp) (by simp)
    exact hf.of_frame (by simp) (by simp) (by simp) (by simp) (by simp)

theorem dimmerRampStep_output {s : State} (h : OutputSound s) : OutputSound (dimmerRampStep s) := by
  unfold dimmerRampStep
  split
  · split
    next hg =>
      simp only [Bool.and_eq_true] at hg
      exact ⟨rampStep_sound h.1 hg.1 _, h.2.of_frame rfl rfl rfl⟩
    next => exact h
  · exact h

theorem slewStep_output {s : State} (h : OutputSound s) : OutputSound (slewStep s) := by
  unfold slewStep
  split
  · split
    next hg =>
      simp only [Bool.and_eq_true] at hg
      exact ⟨slewStep_sound h.1 hg.1 _, h.2.of_frame rfl rfl rfl⟩
    next => exact h
  · exact h

/-! ## The supply monitor -/

theorem bandEvent_output {s : State} (h : OutputSound s) (v : Millivolts) : OutputSound (bandEvent v s) := by
  unfold bandEvent
  dsimp only
  split
  next hg =>
    simp only [Bool.and_eq_true] at hg
    exact takeBand_sound h.1 h.2 hg.1 _
  next => exact h

/-- The band of a node in SAG_PENDING leaves SAG as it is (R88). -/
theorem onBand_sag {b : Band} (h : SupplyState.onBand .sagPending b = .sagPending) : SupplyState.onBand .sag b = .sag := by
  cases b <;> first
    | rfl
    | cases h

/-- The band of a node in RECOVER_PENDING leaves NORMAL as it is (R88). -/
theorem onBand_normal {b : Band} (h : SupplyState.onBand .recoverPending b = .recoverPending) :
    SupplyState.onBand .normal b = .normal := by
  cases b <;> first
    | rfl
    | cases h

theorem settleTimerExpiry_output {s : State} (h : OutputSound s) : OutputSound (settleTimerExpiry s) := by
  unfold settleTimerExpiry
  split
  next hg =>
    simp only [Bool.and_eq_true, decide_eq_true_eq] at hg
    obtain ⟨⟨hr, hst⟩, -⟩ := hg
    have hband := h.2.band
    rw [hst] at hband
    have hmoved : OutputSound (s.moveSupply .sag) := ⟨h.1.moveSupply _ hr, h.2.moveSupply _ hr (onBand_sag hband)⟩
    exact hmoved.of_frame (by simp) (by simp) (by simp) (by simp) (State.running_congr (by simp))
  next => exact h

theorem releaseTimerExpiry_output {s : State} (h : OutputSound s) : OutputSound (releaseTimerExpiry s) := by
  unfold releaseTimerExpiry
  split
  next hg =>
    simp only [Bool.and_eq_true, decide_eq_true_eq] at hg
    obtain ⟨⟨hr, hst⟩, -⟩ := hg
    have hband := h.2.band
    rw [hst] at hband
    exact ⟨h.1.moveSupply _ hr, h.2.moveSupply _ hr (onBand_normal hband)⟩
  next => exact h

/-! ## The entry to ASLEEP and the obligation -/

/-- The roster emptied, K* is the own cap, which K does not pass (R84, R93). -/
theorem enterAsleep_output {s : State} (h : OutputSound s) : OutputSound (enterAsleep s) := by
  unfold enterAsleep
  split
  · have hown : s.fallAsleep.target = s.supply.ownCap := roster_empty_target s.config s.supply.ownCap
    obtain ⟨hlevel, hsupply⟩ := h
    refine ⟨LevelCore.sound ⟨hlevel.applied, fun _ => ⟨rfl, rfl⟩, nofun⟩ ?_ nofun, ?_⟩
    · rw [hown]
      exact hlevel.capped.trans (target_le_ownCap s)
    · exact ⟨hsupply.ownCap, nofun, nofun, fun _ => ⟨rfl, rfl⟩, hsupply.band⟩
  · exact h

/-- The commands that reach the level unit, the supply monitor or the roster's entries have a law each; the rest leave
them alone. -/
theorem OutputSound.effect {s : State} (h : OutputSound s) (c : Instr) : OutputSound (c.effect s) := by
  cases c
  case powerOnStart | resetRelease | configReadFailure | configReadRetry | configReadDone | wakingEnd =>
    exact h.startUp (effect_startUp rfl s)
  case callHandled | cancelHandled | handoffHandled | themeHandled | dimHandled | sleepHandled | wakeHandled |
    queryHandled | clearHandled | statusHandled => exact handled_output h rfl
  case attemptSent =>
    exact h.untouched _ rfl nofun (by simp [Instr.effect]) (by simp [Instr.effect]) (attemptSent_entries s).1
  case presenceTimerExpiry =>
    exact h.untouched _ rfl nofun (by simp [Instr.effect]) (by simp [Instr.effect]) (presenceTimerExpiry_entries s)
  case frameTaken bits => exact frameTaken_output h bits
  case presenceDelivered => exact (delivered_output h).1
  case capDelivered => exact (delivered_output h).2
  case absenceExpiry i => exact absenceExpiry_output h i
  case dimmerRampStep => exact dimmerRampStep_output h
  case slewStep => exact slewStep_output h
  case bandEvent v => exact bandEvent_output h v
  case settleTimerExpiry => exact settleTimerExpiry_output h
  case releaseTimerExpiry => exact releaseTimerExpiry_output h
  case enterAsleep => exact enterAsleep_output h
  all_goals exact h.untouched _ rfl nofun (by simp [Instr.effect]) (by simp [Instr.effect]) (by simp [Instr.effect])

/-- Settles O7: `OutputSound` does not speak of the queue of commands, and every effect keeps it. -/
theorem stepKeepsLevelAndSupplySound : Obligations.StepKeepsLevelAndSupplySound :=
  step_keeps (P := OutputSound) (fun _ _ h => h.of_frame rfl rfl rfl rfl rfl) fun c _ h => h.effect c

end Sys2Proof.Machine
end

section
/-! SUPPORT. O8: every command keeps `CueSound`. -/

namespace Sys2Proof.Machine

theorem CueSound.startUp {s t : State} (h : CueSound s) (ht : StartUp s t) : CueSound t := by
  cases ht with
  | stays => exact h
  | reader hs hn =>
    have hr : s.running = false := State.running_of_starting hs
    have hc : s.cues = [] := h.waiting (by simp [hs])
    exact CueSound.bare hc (h.empty hr) h.fifo h.slot
  | powerOn r => exact CueSound.powerOn r _
  | read hg v => exact CueSound.enterActive _ v
  | woken hs v => exact CueSound.enterActive _ v

theorem wakingEdge_cues {s : State} (h : CueSound s) : CueSound (wakingEdge s) := by
  unfold wakingEdge
  split
  next ha => exact CueSound.bare (h.waiting (by simp [ha])) (h.empty (by simp [State.running, ha])) h.fifo h.slot
  next => exact h

theorem edges_cues {s : State} (h : CueSound s) (g : Gap) : CueSound (startBit g s) ∧ CueSound (lineNoise g s) := by
  have hw := wakingEdge_cues h
  unfold startBit lineNoise
  constructor
  all_goals
    split
    · (repeat' split) <;> exact h.of_frame (by simp) (by simp) (by simp) (by simp) (by simp) (by simp)
    · exact hw

/-- A command that leaves list, stack, intake and node state alone keeps them sound. -/
theorem CueSound.untouched {s : State} (h : CueSound s) (c : Instr) (hc : c.startsUp = false)
    (hcues : (c.effect s).cues = s.cues) (hs : (c.effect s).stack = s.stack)
    (hn : (c.effect s).nodeState = s.nodeState) (hf : (c.effect s).intake.fifo = s.intake.fifo)
    (hsl : (c.effect s).intake.slot = s.intake.slot) : CueSound (c.effect s) :=
  h.of_frame hcues hs (effect_config hc s) hn hf hsl

/-! ## The intake -/

/-- What the checks deliver names a station and has legal fields (R43, R45). -/
theorem judge_delivered {c : NodeConfig} {d : Bool} {header : BitVec 12} {body : List Byte} {k : FrameKind}
    (h : judge c d header body = .delivered k) : headerOrigin header ≠ 31 ∧ fieldsLegal k body = true := by
  unfold judge at h
  dsimp only at h
  split at h
  · cases h
  split at h
  · cases h
  split at h
  · cases h
  next horigin =>
    split at h
    · cases h
    split at h
    · cases h
    next hlegal =>
      split at h
      · cases h
        exact ⟨horigin, by simpa using hlegal⟩
      · cases h

/-- A CALL with legal fields from a station names a key and has a period (R28, R29, R45). -/
theorem bodyOrder_sound {k : FrameKind} {z : ZoneNo} {body : List Byte} {o : Order} (hz : z ≠ 31)
    (hl : fieldsLegal k body = true) (ho : bodyOrder k body = some o) : IntakeEntry.Sound ⟨z, o⟩ := by
  cases k
  case call =>
    obtain ⟨e, -, rfl⟩ := Option.map_eq_some_iff.1 ho
    simp only [fieldsLegal, Bool.and_eq_true, bne_iff_ne, ne_eq] at hl
    obtain ⟨⟨⟨htag, -⟩, hperiod⟩, -⟩ := hl
    exact ⟨by simpa [CueKey.wf] using ⟨hz, htag⟩, hperiod⟩
  case presence | cap => cases ho
  all_goals
    cases ho
    trivial

/-- A delivery to the roster takes a frame from the inbox and nothing else from the intake (R47; log entry 8). -/
theorem delivered_fifo_slot (s : State) :
    ((presenceDelivered s).intake.fifo = s.intake.fifo ∧ (presenceDelivered s).intake.slot = s.intake.slot) ∧
    (capDelivered s).intake.fifo = s.intake.fifo ∧ (capDelivered s).intake.slot = s.intake.slot := by
  unfold presenceDelivered capDelivered
  constructor
  all_goals (repeat' split) <;> simp

theorem CueSound.accept {s : State} (h : CueSound s) (header : BitVec 12) (body : List Byte) :
    CueSound (s.accept header body) := by
  unfold State.accept
  split
  · exact h
  · exact h.of_frame rfl rfl rfl rfl rfl rfl
  next k hk =>
    obtain ⟨hz, hl⟩ := judge_delivered hk
    unfold State.deliverFrame
    split
    next o ho => exact h.deliver (bodyOrder_sound hz hl ho)
    next =>
      split
      · exact h.of_frame rfl rfl rfl rfl rfl rfl
      · exact h

theorem frameTaken_cues {s : State} (h : CueSound s) (bits : List LineBit) : CueSound (frameTaken bits s) := by
  unfold frameTaken
  split
  · split
    · have ht : CueSound ((s.raiseIf (decide (headerOrigin (rxHeader bits) = s.config.zone)) .twinZone).refresh
          (headerOrigin (rxHeader bits))) := h.of_frame (by simp) (by simp) (by simp) (by simp) (by simp) (by simp)
      exact (ht.accept (rxHeader bits) (rxBody bits)).of_frame (by simp [State.handOn]) (by simp [State.handOn])
        (by simp [State.handOn]) (by simp [State.handOn]) (by simp [State.handOn]) (by simp [State.handOn])
    · exact h.of_frame (by simp) (by simp) (by simp) (by simp) (by simp) (by simp)
  · exact h

/-! ## Records and layers that change in ACTIVE only -/

theorem State.isDraining_of_not_active {s : State} (hr : s.running = true) (ha : s.nodeState ≠ .active) :
    s.isDraining = true :=
  State.isDraining_eq_true.2 ((State.running_eq_true.1 hr).resolve_left ha)

theorem findCue_nil (k : CueKey) : findCue k [] = none := rfl

theorem CueSound.settleCall {s : State} (h : CueSound s) (hr : s.running = true) {key : CueKey} (hw : key.wf = true)
    (route : BitVec 3) {sh : Shape} (hp : sh.period ≠ 0) (d : Byte) : CueSound (s.settleCall key route sh d) := by
  by_cases ha : s.nodeState = .active
  · exact h.of_active (h.core.settleCall hw route hp d) ha (by simp) (by simp) (by simp)
  · have hd := State.isDraining_of_not_active hr ha
    simpa [State.settleCall, hd] using h

theorem CueSound.settleHandoff {s : State} (h : CueSound s) (z : ZoneNo) (key : CueKey) (route : BitVec 3) :
    CueSound (s.settleHandoff z key route) := by
  by_cases ha : s.nodeState = .active
  · exact h.of_active (h.core.settleHandoff z key route) ha (by simp) (by simp) (by simp)
  · simpa [State.settleHandoff, h.waiting ha, findCue_nil] using h

theorem CueSound.signalAbsence {s : State} (h : CueSound s) (z : ZoneNo) : CueSound (s.signalAbsence z) := by
  by_cases ha : s.nodeState = .active
  · exact h.of_active (h.core.signalAbsence z) ha (by simp) (by simp) (by simp)
  · simpa [State.signalAbsence, h.waiting ha] using h

theorem CueSound.order {s : State} (h : CueSound s) (hr : s.running = true) {e : IntakeEntry} (he : e.Sound) :
    CueSound (e.order.effect e.origin s) := by
  obtain ⟨z, o⟩ := e
  cases o
  case wake => exact h.wake
  case call tag route sh d => exact h.settleCall hr he.1 route he.2 d
  case cancel o tag m t => exact (h.cancel o tag m t).drainCheck
  case handoff o tag r => exact h.settleHandoff z ⟨o, tag⟩ r
  case sleep d => exact h.sleep d
  all_goals
    exact h.of_frame (by simp [Order.effect]) (by simp [Order.effect]) (by simp) (by simp [Order.effect]) (by simp) (by simp)

theorem handled_cues {s : State} (h : CueSound s) {c : Instr} (hc : c.handles = true) : CueSound (c.effect s) := by
  rcases effect_handled hc s with he | ⟨hr, e, hslot, he⟩
  · rwa [he]
  · rw [he]
    obtain ⟨x, hx, rfl⟩ := Option.map_eq_some_iff.1 hslot
    exact h.complete fun hs => hs.order hr (h.slot x hx)

theorem absenceExpiry_cues {s : State} (h : CueSound s) (i : Fin 31) : CueSound (absenceExpiry i s) := by
  unfold absenceExpiry
  split
  · split
    · have hs : CueSound (s.setPeer i none) := h.of_frame rfl rfl rfl rfl rfl rfl
      exact (hs.signalAbsence _).of_frame rfl rfl rfl rfl rfl rfl
    · exact h
  · exact h

/-- A record of the list is there in ACTIVE alone, its key on no layer (R98, R181). -/
theorem CueSound.found {s : State} (h : CueSound s) {k : CueKey} {c : CueRecord} (hc : findCue k s.cues = some c) :
    s.nodeState = .active ∧ c ∈ s.cues ∧ c.Sound s.config ∧ (∀ l ∈ s.stack.layers, l.key ≠ c.key) ∧
      ∀ x ∈ s.cues, x.key = c.key → x = c := by
  obtain ⟨hm, -⟩ := findCue_some hc
  refine ⟨?_, hm, h.cues c hm, fun l hl => (h.oneHome c hm l hl).symm, fun x hx hk => eq_of_key h.cueKeys hx hm hk⟩
  by_contra ha
  rw [h.waiting ha] at hm
  cases hm

theorem deadlines_cues {s : State} (h : CueSound s) (k : CueKey) :
    CueSound (fallbackExpiry k s) ∧ CueSound (delayExpiry k s) := by
  unfold fallbackExpiry delayExpiry
  constructor
  · split
    next c hc =>
      obtain ⟨ha, -, hs, hn, huniq⟩ := h.found hc
      split
      · exact h.of_active ((h.core.weaken _).enterDelaying hs.key hs.period hn huniq) ha (by simp) (by simp) (by simp)
      · exact h
    next => exact h
  · split
    next c hc =>
      obtain ⟨ha, -, hs, hn, -⟩ := h.found hc
      split
      · exact h.of_active ((h.core.weaken _).startCue hs.key hs.period hn) ha (by simp) (by simp) (by simp)
      · exact h
    next => exact h

/-! ## Phases, fades and the drain -/

theorem layerPhaseAdvance_cues {s : State} (h : CueSound s) (k : CueKey) : CueSound (layerPhaseAdvance k s) := by
  unfold layerPhaseAdvance
  split
  next l hl =>
    obtain ⟨hm, hk⟩ := findLayer_some hl
    split
    next hg =>
      simp only [Bool.and_eq_true] at hg
      refine CueSound.drainCheck (CueSound.checkDue (h.replaceLayer k _ fun a ha hak b hb => ?_) k)
      rw [eq_of_key h.layerKeys ha hm (hak.trans hk.symm)]
      exact Layer.advance_sound (h.layers l hm) hg.1.2 hb
    next => exact h
  next => exact h

theorem fadeStep_cues {s : State} (h : CueSound s) (k : CueKey) : CueSound (fadeStep k s) := by
  unfold fadeStep
  split
  next l hl =>
    obtain ⟨hm, hk⟩ := findLayer_some hl
    split
    next f hf =>
      split
      next hg =>
        simp only [Bool.and_eq_true, decide_eq_true_eq] at hg
        refine CueSound.drainCheck (h.replaceLayer k _ fun a ha hak b hb => ?_)
        rw [eq_of_key h.layerKeys ha hm (hak.trans hk.symm)]
        exact Layer.fadeOnce_sound (h.layers l hm) hg.1.2 hb
      next => exact h
    next => exact h
  next => exact h

theorem transitionStep_cues {s : State} (h : CueSound s) : CueSound (transitionStep s) := by
  unfold transitionStep
  split
  · split
    · exact CueSound.drainCheck (h.of_frame rfl rfl rfl rfl rfl rfl)
    · exact h
  · exact h

theorem drainTimerExpiry_cues {s : State} (h : CueSound s) : CueSound (drainTimerExpiry s) := by
  unfold drainTimerExpiry
  split
  next hg =>
    simp only [Bool.and_eq_true, decide_eq_true_eq] at hg
    exact (h.beginDarkPhase (by simp [State.isDraining, hg.1])).darkCheck rfl
  next => exact h

theorem enterAsleep_cues {s : State} (h : CueSound s) : CueSound (enterAsleep s) := by
  unfold enterAsleep
  split
  · exact CueSound.blank rfl rfl rfl rfl
  · exact h

/-! ## The obligation -/

/-- The commands of the intake, the cue engine and the drain have a law each; the rest leave them alone. -/
theorem CueSound.effect {s : State} (h : CueSound s) (c : Instr) : CueSound (c.effect s) := by
  cases c
  case powerOnStart | resetRelease | configReadFailure | configReadRetry | configReadDone | wakingEnd =>
    exact h.startUp (effect_startUp rfl s)
  case callHandled | cancelHandled | handoffHandled | themeHandled | dimHandled | sleepHandled | wakeHandled |
    queryHandled | clearHandled | statusHandled => exact handled_cues h rfl
  case wakingEdge => exact wakingEdge_cues h
  case startBit g => exact (edges_cues h g).1
  case lineNoise g => exact (edges_cues h g).2
  case frameTaken bits => exact frameTaken_cues h bits
  case presenceDelivered =>
    obtain ⟨⟨hf, hsl⟩, -⟩ := delivered_fifo_slot s
    exact h.untouched _ rfl (by simp [Instr.effect]) (by simp [Instr.effect]) (by simp [Instr.effect]) hf hsl
  case capDelivered =>
    obtain ⟨-, hf, hsl⟩ := delivered_fifo_slot s
    exact h.untouched _ rfl (by simp [Instr.effect]) (by simp [Instr.effect]) (by simp [Instr.effect]) hf hsl
  case absenceExpiry i => exact absenceExpiry_cues h i
  case fallbackExpiry k => exact (deadlines_cues h k).1
  case delayExpiry k => exact (deadlines_cues h k).2
  case showTick => exact h.showTick
  case layerPhaseAdvance k => exact layerPhaseAdvance_cues h k
  case fadeStep k => exact fadeStep_cues h k
  case transitionStep => exact transitionStep_cues h
  case drainTimerExpiry => exact drainTimerExpiry_cues h
  case enterAsleep => exact enterAsleep_cues h
  all_goals
    exact h.untouched _ rfl (by simp [Instr.effect]) (by simp [Instr.effect]) (by simp [Instr.effect])
      (by simp [Instr.effect]) (by simp [Instr.effect])

/-- Settles O8: `CueSound` does not speak of the queue of commands, and every effect keeps it. -/
theorem stepKeepsTheCuesSound : Obligations.StepKeepsTheCuesSound :=
  step_keeps (fun _ _ h => h.of_frame rfl rfl rfl rfl rfl rfl) fun c _ h => h.effect c

end Sys2Proof.Machine
end

section
/-! SUPPORT. O9: every command keeps `DrainSound`. -/

namespace Sys2Proof.Machine

/-- A node that does not run may move to another state in which it does not. -/
theorem DrainSound.stoppedMove {s : State} (h : DrainSound s) (hr : s.running = false) {n : NodeState}
    (hn : { s with nodeState := n }.running = false) : DrainSound { s with nodeState := n } := by
  have hd : ∀ p, n ≠ .draining p := State.not_draining_of_stopped hn
  refine DrainSound.of_outside (h.deadline_none (State.not_draining_of_stopped hr _)) ?_ h.base fun _ => h.stopped hr
  refine Bool.eq_false_iff.2 fun h0 => ?_
  obtain ⟨p, hp⟩ := State.isDraining_eq_true.1 h0
  exact hd p hp

theorem DrainSound.startUp {s t : State} (h : DrainSound s) (ht : StartUp s t) : DrainSound t := by
  have hactive (u : State) (v : Millivolts) : DrainSound (u.enterActive v) :=
    DrainSound.of_outside (by simp [State.enterActive, State.activated])
      (by simp [State.isDraining, State.enterActive, State.activated])
      (by simpa [State.enterActive, State.activated, Base.start] using Base.moveTo_sound _ _ _)
      (fun h0 => by simp [State.running, State.enterActive, State.activated] at h0)
  cases ht with
  | stays => exact h
  | reader hs hn => exact h.stoppedMove (State.running_of_starting hs) (s.running_of_reader hn)
  | powerOn r => exact DrainSound.of_outside rfl rfl nofun fun _ => rfl
  | read hg v => exact hactive _ v
  | woken hs v => exact hactive _ v

theorem wakingEdge_drain {s : State} (h : DrainSound s) : DrainSound (wakingEdge s) := by
  unfold wakingEdge
  split
  next ha => exact h.stoppedMove (by simp [State.running, ha]) rfl
  next => exact h

theorem edges_drain {s : State} (h : DrainSound s) (g : Gap) : DrainSound (startBit g s) ∧ DrainSound (lineNoise g s) := by
  have hw := wakingEdge_drain h
  unfold startBit lineNoise
  constructor
  all_goals
    split
    · (repeat' split) <;> exact h.of_frame (by simp) (by simp) (by simp) (by simp) (by simp)
    · exact hw

/-! ## Records that change in ACTIVE only -/

/-- In a running node that is not ACTIVE the cue list is empty (R181). -/
theorem DrainSound.noCues {s : State} (h : DrainSound s) (hr : s.running = true) (ha : s.nodeState ≠ .active) :
    s.cues = [] := h.waiting (State.isDraining_of_not_active hr ha)

theorem DrainSound.settleCall {s : State} (h : DrainSound s) (hr : s.running = true) (key : CueKey) (route : BitVec 3)
    (sh : Shape) (d : Byte) : DrainSound (s.settleCall key route sh d) := by
  by_cases ha : s.nodeState = .active
  · exact h.of_active ha (by simp) (by simp) (by simpa using h.base)
  · simpa [State.settleCall, State.isDraining_of_not_active hr ha] using h

theorem DrainSound.settleHandoff {s : State} (h : DrainSound s) (hr : s.running = true) (z : ZoneNo) (key : CueKey)
    (route : BitVec 3) : DrainSound (s.settleHandoff z key route) := by
  by_cases ha : s.nodeState = .active
  · exact h.of_active ha (by simp) (by simp) (by simpa using h.base)
  · simpa [State.settleHandoff, h.noCues hr ha, findCue_nil] using h

theorem absenceExpiry_drain {s : State} (h : DrainSound s) (i : Fin 31) : DrainSound (absenceExpiry i s) := by
  unfold absenceExpiry
  split
  · split
    next hg =>
      simp only [Bool.and_eq_true] at hg
      by_cases ha : s.nodeState = .active
      · exact h.of_active ha (by simp) (by simp) (by simpa using h.base)
      · have hc (z : ZoneNo) : (s.setPeer i none).signalAbsence z = s.setPeer i none := by
          simp [State.signalAbsence, h.noCues hg.1 ha]
        rw [hc]
        exact h.of_frame (by simp) (by simp) (by simp) (by simp) (by simp)
    next => exact h
  · exact h

theorem deadlines_drain {s : State} (h : DrainSound s) (k : CueKey) :
    DrainSound (fallbackExpiry k s) ∧ DrainSound (delayExpiry k s) := by
  by_cases ha : s.nodeState = .active
  · exact ⟨h.of_active ha (by simp) (by simp) (by simpa using h.base),
      h.of_active ha (by simp) (by simp) (by simpa using h.base)⟩
  · cases hr : s.running
    case false =>
      have hf : fallbackExpiry k s = s := effect_of_stopped (c := .fallbackExpiry k) rfl rfl hr
      have hd : delayExpiry k s = s := effect_of_stopped (c := .delayExpiry k) rfl rfl hr
      rw [hf, hd]
      exact ⟨h, h⟩
    case true => simpa [fallbackExpiry, delayExpiry, h.noCues hr ha, findCue_nil] using h

/-! ## Layers and the base in DRAINING -/

/-- An advance leaves a FADING layer FADING, if it leaves it (R126). -/
theorem Layer.advance_fading {l m : Layer} (hf : l.state = .fading) (h : l.advance = some m) : m.state = .fading := by
  unfold Layer.advance Layer.endRun at h
  dsimp only at h
  split at h
  · split at h
    · cases h
      exact hf
    · split at h
      · cases h
      · simp only [hf] at h
        cases h
        rfl
  · cases h
    exact hf

theorem Layer.fadeOnce_fading {l m : Layer} {f : Fade} (hf : l.state = .fading) (h : l.fadeOnce f = some m) :
    m.state = .fading := by
  unfold Layer.fadeOnce at h
  dsimp only at h
  split at h
  · cases h
    exact hf
  · cases h

/-- A layer that a CANCEL matches fades, if it is left (R116). -/
theorem Layer.cancel_fading {l m : Layer} {mode : CancelMode} {t : Nat} {now : Clock}
    (h : l.cancel mode t now = some m) : m.state = .fading := by
  unfold Layer.cancel at h
  split at h
  · cases h
  · split at h
    · cases h
    · cases h
      rfl

/-- Where a layer is found, the node is not past its dark order; and in its dark phase the layer fades (R183, R184). -/
theorem DrainSound.found {s : State} (h : DrainSound s) {k : CueKey} {l : Layer} (hl : findLayer k s.stack.layers = some l) :
    s.nodeState ≠ .draining .ordered ∧ (s.nodeState = .draining .dark → l.state = .fading) := by
  refine ⟨fun ho => ?_, fun hd => (h.dark hd).1 l (findLayer_some hl).1⟩
  rw [(h.ordered ho).2] at hl
  cases hl

theorem fading_of_states {ls ls' : List Layer} (h : ls'.map Layer.state = ls.map Layer.state)
    (hf : ∀ l ∈ ls, l.state = .fading) : ∀ l ∈ ls', l.state = .fading := by
  have hall : ∀ st ∈ ls'.map Layer.state, st = .fading := by
    rw [h]
    simpa using hf
  simpa using hall

theorem layerPhaseAdvance_drain {s : State} (h : DrainSound s) (k : CueKey) : DrainSound (layerPhaseAdvance k s) := by
  unfold layerPhaseAdvance
  split
  next l hl =>
    obtain ⟨hno, hfade⟩ := h.found hl
    split
    next hg =>
      simp only [Bool.and_eq_true] at hg
      refine h.drainCheck (by simp) (by simp) (fun hd => by simpa using h.waiting hd) (by simpa using h.base)
        (fun h0 => absurd hg.1.1 (by simp [h0])) (fun hd => ?_) (fun ho => absurd ho hno)
      exact fading_of_states (State.checkDue_states _ k)
        (replaceLayer_states (fun m hm => Layer.advance_fading (hfade hd) hm) (h.dark hd).1)
    next => exact h
  next => exact h

theorem fadeStep_drain {s : State} (h : DrainSound s) (k : CueKey) : DrainSound (fadeStep k s) := by
  unfold fadeStep
  split
  next l hl =>
    obtain ⟨hno, hfade⟩ := h.found hl
    split
    next f hf =>
      split
      next hg =>
        simp only [Bool.and_eq_true] at hg
        exact h.drainCheck (by simp) (by simp) (fun hd => by simpa using h.waiting hd) (by simpa using h.base)
          (fun h0 => absurd hg.1.1 (by simp [h0]))
          (fun hd => replaceLayer_states (fun m hm => Layer.fadeOnce_fading (hfade hd) hm) (h.dark hd).1)
          (fun ho => absurd ho hno)
      next => exact h
    next => exact h
  next => exact h

theorem transitionStep_drain {s : State} (h : DrainSound s) : DrainSound (transitionStep s) := by
  unfold transitionStep
  split
  next tr htr =>
    split
    next hg =>
      simp only [Bool.and_eq_true] at hg
      refine h.drainCheck rfl rfl h.waiting (Base.step_sound tr) (fun h0 => absurd hg.1 (by simp [h0]))
        (fun hd => (h.dark hd).1) (fun ho => ?_)
      have hdark := (h.ordered ho).1
      simp [Base.dark, htr] at hdark
    next => exact h
  next => exact h

theorem drainTimerExpiry_drain {s : State} (h : DrainSound s) : DrainSound (drainTimerExpiry s) := by
  unfold drainTimerExpiry
  split
  next hg =>
    simp only [Bool.and_eq_true, decide_eq_true_eq] at hg
    exact DrainSound.endDrain (h.waiting (by simp [State.isDraining, hg.1]))
  next => exact h

theorem Layer.tick_state (l : Layer) : l.tick.state = l.state := by
  unfold Layer.tick
  split <;> rfl

theorem showTick_drain {s : State} (h : DrainSound s) : DrainSound (showTick s) := by
  unfold showTick
  split
  · refine h.sameStates rfl rfl id (fun _ => ?_) rfl
    simp [State.setLayers, Layer.tick_state]
  · exact h

/-! ## The handled orders -/

theorem DrainSound.cancel {s : State} (h : DrainSound s) (o : ZoneNo) (tag : Byte) (m : CancelMode) (t : Byte) :
    DrainSound (s.cancel o tag m t).drainCheck := by
  refine h.drainCheck (by simp) (by simp) (fun hd => ?_) (by simpa using h.base) (by simpa using h.stopped)
    (fun hd l hl => ?_) (fun ho => ?_)
  · simp [State.cancel, h.waiting hd]
  · obtain ⟨a, ha, hal⟩ := List.mem_filterMap.1 hl
    split at hal
    · exact Layer.cancel_fading hal
    · exact Option.some.inj hal ▸ (h.dark hd).1 a ha
  · obtain ⟨hdark, hnil⟩ := h.ordered ho
    exact ⟨hdark, by simp [State.cancel, hnil]⟩

theorem DrainSound.order {s : State} (h : DrainSound s) (hr : s.running = true) (z : ZoneNo) (o : Order) :
    DrainSound (o.effect z s) := by
  cases o
  case wake => exact h.wake
  case call tag route sh d => exact h.settleCall hr ⟨z, tag⟩ route sh d
  case cancel o tag m t => exact h.cancel o tag m t
  case handoff o tag r => exact h.settleHandoff hr z ⟨o, tag⟩ r
  case theme colour level time => exact h.setTheme hr ⟨colour, level⟩ time.toNat
  case sleep d => exact h.sleep d
  all_goals
    exact h.of_frame (by simp [Order.effect]) (by simp [Order.effect]) (by simp [Order.effect]) (by simp [Order.effect])
      (by simp [Order.effect])

theorem handled_drain {s : State} (h : DrainSound s) {c : Instr} (hc : c.handles = true) : DrainSound (c.effect s) := by
  rcases effect_handled hc s with he | ⟨hr, e, -, he⟩
  · rwa [he]
  · rw [he]
    exact h.complete fun hs => hs.order hr _ _

/-! ## The obligation -/

theorem enterAsleep_drain {s : State} (h : DrainSound s) : DrainSound (enterAsleep s) := by
  unfold enterAsleep
  split
  · exact DrainSound.of_outside rfl rfl nofun fun _ => rfl
  · exact h

/-- The commands of the cue engine, the base and the drain have a law each; the rest leave them alone. -/
theorem DrainSound.effect {s : State} (h : DrainSound s) (c : Instr) : DrainSound (c.effect s) := by
  cases c
  case powerOnStart | resetRelease | configReadFailure | configReadRetry | configReadDone | wakingEnd =>
    exact h.startUp (effect_startUp rfl s)
  case callHandled | cancelHandled | handoffHandled | themeHandled | dimHandled | sleepHandled | wakeHandled |
    queryHandled | clearHandled | statusHandled => exact handled_drain h rfl
  case wakingEdge => exact wakingEdge_drain h
  case startBit g => exact (edges_drain h g).1
  case lineNoise g => exact (edges_drain h g).2
  case absenceExpiry i => exact absenceExpiry_drain h i
  case fallbackExpiry k => exact (deadlines_drain h k).1
  case delayExpiry k => exact (deadlines_drain h k).2
  case showTick => exact showTick_drain h
  case layerPhaseAdvance k => exact layerPhaseAdvance_drain h k
  case fadeStep k => exact fadeStep_drain h k
  case transitionStep => exact transitionStep_drain h
  case drainTimerExpiry => exact drainTimerExpiry_drain h
  case enterAsleep => exact enterAsleep_drain h
  all_goals
    exact h.of_frame (by simp [Instr.effect]) (by simp [Instr.effect]) (by simp [Instr.effect]) (by simp [Instr.effect])
      (by simp [Instr.effect])

/-- Settles O9: `DrainSound` does not speak of the queue of commands, and every effect keeps it. -/
theorem stepKeepsTheDrainSound : Obligations.StepKeepsTheDrainSound :=
  step_keeps (fun _ _ h => h.of_frame rfl rfl rfl rfl rfl) fun c _ h => h.effect c

end Sys2Proof.Machine
end

section
/-! SUPPORT. O10: every command keeps `PortsSound`. -/

namespace Sys2Proof.Machine

/-- A node that does not run may move to another state in which it does not. -/
theorem PortsSound.stoppedMove {s : State} (h : PortsSound s) (hr : s.running = false) {n : NodeState}
    (hn : { s with nodeState := n }.running = false) : PortsSound { s with nodeState := n } :=
  h.of_node rfl rfl rfl (by simp [hr, hn])

theorem PortsSound.startUp {s t : State} (h : PortsSound s) (ht : StartUp s t) : PortsSound t := by
  cases ht with
  | stays => exact h
  | reader hs hn => exact h.stoppedMove (State.running_of_starting hs) (s.running_of_reader hn)
  | powerOn r => exact PortsSound.powerOn r _
  | read hg v => exact PortsSound.enterActive _ v
  | woken hs v => exact PortsSound.enterActive _ v

theorem wakingEdge_ports {s : State} (h : PortsSound s) : PortsSound (wakingEdge s) := by
  unfold wakingEdge
  split
  next ha => exact h.stoppedMove (by simp [State.running, ha]) rfl
  next => exact h

theorem edges_ports {s : State} (h : PortsSound s) (g : Gap) : PortsSound (startBit g s) ∧ PortsSound (lineNoise g s) := by
  have hw := wakingEdge_ports h
  unfold startBit lineNoise
  constructor
  all_goals
    split
    · (repeat' split) <;> exact h.of_frame (by simp) (by simp) (by simp) (by simp)
    · exact hw

/-! ## The commands that end a step with the drain checks -/

theorem layerPhaseAdvance_ports {s : State} (h : PortsSound s) (k : CueKey) : PortsSound (layerPhaseAdvance k s) := by
  unfold layerPhaseAdvance
  (repeat' split)
  · exact (h.of_frame (by simp) (by simp) (by simp) (by simp)).drainCheck
  all_goals exact h

theorem fadeStep_ports {s : State} (h : PortsSound s) (k : CueKey) : PortsSound (fadeStep k s) := by
  unfold fadeStep
  (repeat' split)
  · exact (h.of_frame (by simp) (by simp) (by simp) (by simp)).drainCheck
  all_goals exact h

theorem transitionStep_ports {s : State} (h : PortsSound s) : PortsSound (transitionStep s) := by
  unfold transitionStep
  split
  next tr htr =>
    split
    · exact (h.of_frame (t := { s with base := s.base.step tr }) rfl rfl rfl rfl).drainCheck
    · exact h
  next => exact h

theorem drainTimerExpiry_ports {s : State} (h : PortsSound s) : PortsSound (drainTimerExpiry s) := by
  unfold drainTimerExpiry
  split
  next hg =>
    simp only [Bool.and_eq_true, decide_eq_true_eq] at hg
    exact (h.beginDarkPhase hg.1).darkCheck
  next => exact h

/-- A node falls asleep out of DRAINING with its ports ordered dark: they stay so (R173). -/
theorem enterAsleep_ports {s : State} (h : PortsSound s) : PortsSound (enterAsleep s) := by
  unfold enterAsleep
  split
  next hg =>
    have ho : s.nodeState = .draining .ordered := by
      simp only [State.mayFallAsleep, Bool.and_eq_true, decide_eq_true_eq] at hg
      exact hg.1.1
    exact h.of_node rfl rfl rfl (iff_of_true (Or.inl rfl) (Or.inr ho))
  next => exact h

/-! ## The handled orders -/

theorem PortsSound.order {s : State} (h : PortsSound s) (z : ZoneNo) (o : Order) : PortsSound (o.effect z s) := by
  cases o
  case wake => exact h.wake
  case sleep d => exact h.sleep d
  case cancel o tag m t => exact (h.of_frame (by simp) (by simp) (by simp) (by simp)).drainCheck
  all_goals
    exact h.of_frame (by simp [Order.effect]) (by simp [Order.effect]) (by simp [Order.effect]) (by simp [Order.effect])

theorem handled_ports {s : State} (h : PortsSound s) {c : Instr} (hc : c.handles = true) : PortsSound (c.effect s) := by
  rcases effect_handled hc s with he | ⟨-, e, -, he⟩
  · rwa [he]
  · rw [he]
    exact h.complete fun hs => hs.order _ _

/-! ## The obligation -/

/-- The start-up, the drain and the commands of the ports have a law each; the rest leave the ports alone. -/
theorem PortsSound.effect {s : State} (h : PortsSound s) (c : Instr) : PortsSound (c.effect s) := by
  cases c
  case powerOnStart | resetRelease | configReadFailure | configReadRetry | configReadDone | wakingEnd =>
    exact h.startUp (effect_startUp rfl s)
  case callHandled | cancelHandled | handoffHandled | themeHandled | dimHandled | sleepHandled | wakeHandled |
    queryHandled | clearHandled | statusHandled => exact handled_ports h rfl
  case wakingEdge => exact wakingEdge_ports h
  case startBit g => exact (edges_ports h g).1
  case lineNoise g => exact (edges_ports h g).2
  case layerPhaseAdvance k => exact layerPhaseAdvance_ports h k
  case fadeStep k => exact fadeStep_ports h k
  case transitionStep => exact transitionStep_ports h
  case drainTimerExpiry => exact drainTimerExpiry_ports h
  case enterAsleep => exact enterAsleep_ports h
  case portFrameEvent p => exact portFrameEvent_ports h p
  case sendFinish p => exact sendFinish_ports h p
  case markerShifted p => exact markerShifted_ports h p
  case darkFrameSent p => exact darkFrameSent_ports h p
  case echoArrival p e => exact echoArrival_ports h p e
  case echoTimeout p => exact echoTimeout_ports h p
  case probeDeadline p => exact probeDeadline_ports h p
  all_goals
    exact h.of_frame (by simp [Instr.effect]) (by simp [Instr.effect]) (by simp [Instr.effect]) (by simp [Instr.effect])

/-- Settles O10: `PortsSound` does not speak of the queue of commands, and every effect keeps it. -/
theorem stepKeepsThePortsSound : Obligations.StepKeepsThePortsSound :=
  step_keeps (fun _ _ h => h.of_frame rfl rfl rfl rfl) fun c _ h => h.effect c

end Sys2Proof.Machine
end

section
/-! SUPPORT. O3, O12, O24: the power-on values and the quiet period's expiry. -/

namespace Sys2Proof.Machine

/-- The configuration is legal while no record is in use: nothing is said of it. -/
theorem ConfigSound.powerOn (r : Reader) (q : List Instr) : ConfigSound (State.powerOn r q) := by
  rintro (h | h | h) <;> cases h

theorem DrainSound.powerOn (r : Reader) (q : List Instr) : DrainSound (State.powerOn r q) :=
  DrainSound.of_outside rfl rfl nofun fun _ => rfl

/-- Settles O3: each block's power-on values are sound. -/
theorem resetIsSound : Obligations.ResetIsSound :=
  ⟨BusSound.powerOn _ _, QueueSound.of_empty rfl rfl, RosterSound.powerOn _ _, LevelSound.powerOn _ _,
    SupplySound.powerOn _ _, CueSound.powerOn _ _, DrainSound.powerOn _ _, PortsSound.powerOn _ _,
    ConfigSound.powerOn _ _⟩

/-! ## Power-on -/

/-- A power-on start gives the power-on values, whatever the state; its cause tells the reader. -/
theorem powerOnStart_eq (cause : PowerCause) (s : State) :
    powerOnStart cause s =
      State.powerOn (if cause = .resetAsserted then .resetHeld else .reading 0) s.pending := by
  cases cause <;> rfl

/-- Settles O12: the values are those of `State.powerOn`, and a node that does not run holds its pins low. -/
theorem powerOnStartValues : Obligations.PowerOnStartValues := by
  intro cause s
  refine ⟨State.powerOn (if cause = .resetAsserted then .resetHeld else .reading 0) s.pending,
    congrArg Host.Outcome.next (powerOnStart_eq cause s), ?_⟩
  have hpin (r : Reader) (pin : Pin) : (State.powerOn r s.pending).pin pin = .low := State.pin_stopped rfl pin
  refine ⟨by split <;> rfl, rfl, rfl, rfl, rfl, rfl, rfl, rfl, rfl, rfl, rfl, rfl, rfl, rfl, ?roster, rfl, rfl, rfl, rfl,
    rfl, rfl, rfl, rfl, rfl, rfl, rfl, rfl, rfl, rfl, rfl, ?ports, ?pwm, hpin _, rfl, rfl, rfl⟩
  case roster => simp [State.powerOn, Roster.powerOn]
  case ports => simp [State.powerOn, Port.powerOn]
  case pwm => simp [State.powerOn]

/-! ## The quiet period -/

/-- A deadline that is present and reached is due. -/
theorem due_some {now d : Clock} (h : reached now d = true) : due now (some d) = true := by simpa [due] using h

theorem quietPeriodExpiry_of_due {s : State} {d : Clock} (hr : s.running = true) (hl : s.bus.standing = .listenOnly)
    (hq : s.bus.quietDeadline = some d) (hd : reached s.showClock d = true) :
    (s.config.recovery = .auto → quietPeriodExpiry s = s.toSpeaking) ∧
    (s.config.recovery = .peer →
      quietPeriodExpiry s = { s with bus := { s.bus with quietDeadline := none, expiryMark := true } }) := by
  constructor
  all_goals
    intro hc
    simp [quietPeriodExpiry, hr, hl, hq, hc, due_some hd]

/-- Settles O24: the two recoveries. -/
theorem quietPeriodExpires : Obligations.QuietPeriodExpires := by
  intro s d hr hl hq hd
  obtain ⟨hauto, hpeer⟩ := quietPeriodExpiry_of_due hr hl hq hd
  exact ⟨fun hc => congrArg Host.Outcome.next (hauto hc), fun hc => congrArg Host.Outcome.next (hpeer hc)⟩

end Sys2Proof.Machine
end

section
/-! SUPPORT. O34, O39, O50, O53: deliveries of a CAP, the supply timers, SLEEP and the entry to ASLEEP. -/

namespace Sys2Proof.Machine

/-! ## CAP -/

theorem capKind_eq (e : Option Peer) :
    capKind e = match e with
      | some p => p.kind
      | none => .lighting := by
  cases e <;> rfl

theorem capDelivered_of_inbox {s : State} {i : Fin 31} {cap : Byte} {rest : List RosterFrame} (hr : s.running = true)
    (hi : s.intake.inbox = .cap i cap :: rest) : capDelivered s = (s.withInbox rest).deliverCap i cap := by
  simp [capDelivered, hi, hr]

/-! ## The supply timers -/

theorem settleTimerExpiry_of_due {s : State} {d : Clock} (hr : s.running = true) (hs : s.supply.state = .sagPending)
    (ht : s.supply.settle = some d) (hd : reached s.showClock d = true) :
    settleTimerExpiry s = (s.moveSupply .sag).raise .supplySag := by
  simp [settleTimerExpiry, hr, hs, ht, due_some hd]

theorem releaseTimerExpiry_of_due {s : State} {d : Clock} (hr : s.running = true)
    (hs : s.supply.state = .recoverPending) (ht : s.supply.release = some d) (hd : reached s.showClock d = true) :
    releaseTimerExpiry s = s.moveSupply .normal := by
  simp [releaseTimerExpiry, hr, hs, ht, due_some hd]

/-- A move of the supply state, its own cap named: the cap is handed on if it is another (R88, R92). -/
theorem State.moveSupply_eq {s : State} {st : SupplyState} {cap : Byte} (h : st ≠ s.supply.state)
    (hc : st.cap s.config.sagCap = cap) :
    s.moveSupply st = if cap = s.supply.ownCap then s.enterSupply st
      else (s.enterSupply st).formTarget.request (.report .cap) := by
  split
  next he => exact State.moveSupply_same_cap h (hc.trans he)
  next he => exact State.moveSupply_new_cap h (hc.trans_ne he)

/-- Settles O39: an expiry is a move of the supply state, to SAG or to NORMAL. -/
theorem supplyTimersExpire : Obligations.SupplyTimersExpire := by
  intro s d hr hd
  constructor
  · intro hs ht moved
    refine congrArg Host.Outcome.next ?_
    rw [settleTimerExpiry_of_due hr hs ht hd, State.moveSupply_eq (by simp [hs]) rfl]
    rfl
  · intro hs ht moved
    refine congrArg Host.Outcome.next ?_
    rw [releaseTimerExpiry_of_due hr hs ht hd, State.moveSupply_eq (by simp [hs]) rfl]
    rfl

/-! ## SLEEP -/

/-- An effect is applied in a state of the same node state. -/
theorem State.complete_congr_node {s : State} {f g : State → State} (h : ∀ u : State, u.nodeState = s.nodeState → f u = g u) :
    s.complete f = s.complete g := State.complete_congr (h _ rfl)

theorem sleepHandled_of_slot {s : State} {origin : ZoneNo} {time : Byte} {at_ : Moment} (hr : s.running = true)
    (hs : s.intake.slot = some ⟨⟨origin, .sleep time⟩, at_⟩) : sleepHandled s = s.complete fun u => u.sleep time := by
  simp [sleepHandled, State.handled, hs, hr]

theorem State.sleep_of_active {s : State} (ha : s.nodeState = .active) (time : Byte) :
    s.sleep time = (s.beginDrain time).drainCheck := by
  simp [State.sleep, ha]

theorem State.sleep_of_draining {s : State} {p : DrainPhase} (hd : s.nodeState = .draining p) (time : Byte) :
    s.sleep time = s := by
  simp [State.sleep, hd]

theorem State.running_of_active {s : State} (h : s.nodeState = .active) : s.running = true := by simp [State.running, h]

theorem State.running_of_draining {s : State} {p : DrainPhase} (h : s.nodeState = .draining p) : s.running = true := by
  simp [State.running, h]

/-! ## The entry to ASLEEP -/

theorem BusPort.inAttempt_eq_false (b : BusPort) : b.inAttempt = false ↔ ∀ f, b.line ≠ .sending f := by
  unfold BusPort.inAttempt
  split <;> simp_all

theorem State.allDark_iff (s : State) :
    s.allDark = true ↔ ∀ p : Fin 4, s.ports[p].state = .dark ∧ s.ports[p].reportedDark = true := by
  simp only [State.allDark, List.all_eq_true, Bool.and_eq_true, decide_eq_true_eq, Fin.forall_iff, Fin.getElem_fin]
  exact List.forall_mem_iff_getElem.trans (by simp)

theorem State.mayFallAsleep_iff (s : State) :
    s.mayFallAsleep = true ↔ s.nodeState = .draining .ordered ∧
      (∀ p : Fin 4, s.ports[p].state = .dark ∧ s.ports[p].reportedDark = true) ∧ ∀ f, s.bus.line ≠ .sending f := by
  simp only [State.mayFallAsleep, Bool.and_eq_true, decide_eq_true_eq, Bool.not_eq_true', State.allDark_iff,
    BusPort.inAttempt_eq_false, and_assoc]

/-- Settles O53: what the command waits for is what the statement names. -/
theorem entryToAsleep : Obligations.EntryToAsleep := by
  refine fun s => ⟨fun hready => congrArg Host.Outcome.next ?_, fun hnot => congrArg Host.Outcome.next ?_⟩
  · exact if_pos (s.mayFallAsleep_iff.2 hready)
  · exact if_neg (mt s.mayFallAsleep_iff.1 hnot)

end Sys2Proof.Machine

/-! ## Obligations of the name of a command -/

namespace Sys2Proof

open Machine

/-- Settles O34: the delivery keeps the kind of a PRESENT entry. -/
theorem capDelivered : Obligations.CapDelivered := by
  intro s i cap rest hr hi kind peer
  refine congrArg Host.Outcome.next ((capDelivered_of_inbox hr hi).trans ?_)
  exact congrArg (fun k => ((s.withInbox rest).setPeer i (some ((s.withInbox rest).heardPeer k cap))).formTarget)
    (capKind_eq s.roster.entries[i])

/-- Settles O50: in the state that has emptied the slot, the node state is the same. -/
theorem sleepHandled : Obligations.SleepHandled := by
  intro s origin time at_ hs single
  refine ⟨fun ha => congrArg Host.Outcome.next ?_, fun p hd => congrArg Host.Outcome.next ?_⟩
  · rw [sleepHandled_of_slot (State.running_of_active ha) hs]
    exact State.complete_congr_node fun u hu => State.sleep_of_active (hu.trans ha) time
  · rw [sleepHandled_of_slot (State.running_of_draining hd) hs]
    exact State.complete_congr_node fun u hu => State.sleep_of_draining (hu.trans hd) time

end Sys2Proof
end

section
/-! SUPPORT. O51, O52: WAKE, the drain and the dark order. -/

namespace Sys2Proof.Machine

/-! ## The return of a port to work -/

theorem Port.backToWork_lit {x : Port} (c : PortConfig) (now : Clock) (h : x.state ≠ .dark) : x.backToWork c now = x := by
  simp [Port.backToWork, h]

theorem Port.backToWork_off {x : Port} {c : PortConfig} (now : Clock) (h : x.state = .dark) (hc : c.type = .off) :
    x.backToWork c now = { Port.powerOn with state := .off } := by
  simp [Port.backToWork, Port.start, h, hc]

theorem Port.isShifting_iff (x : Port) : x.isShifting = true ↔ x.activity = .shifting ∨ x.activity = .darkShifting := by
  simp [Port.isShifting]

theorem Port.backToWork_busy {x : Port} {c : PortConfig} (now : Clock) (h : x.state = .dark) (hc : c.type ≠ .off)
    (hb : x.activity = .shifting ∨ x.activity = .darkShifting) :
    x.backToWork c now = { Port.powerOn with
      state := .shifting, activity := .shifting, shift := x.shift, checkEcho := false, lastSent := x.lastSent
      forced := true, frameDeadline := some (later now c.framePeriod) } := by
  simp [Port.backToWork, Port.start, h, hc, x.isShifting_iff.2 hb]

theorem Port.backToWork_free {x : Port} {c : PortConfig} (now : Clock) (h : x.state = .dark) (hc : c.type ≠ .off)
    (hb : ¬(x.activity = .shifting ∨ x.activity = .darkShifting)) :
    x.backToWork c now = { Port.powerOn with
      state := .idle, lastSent := x.lastSent, forced := true, frameDeadline := some (later now c.framePeriod) } := by
  simp [Port.backToWork, Port.start, h, hc, mt x.isShifting_iff.1 hb]

theorem State.wake_of_draining {s : State} {p : DrainPhase} (h : s.nodeState = .draining p) :
    s.wake = { s.returnPorts with
      nodeState := .active
      drainDeadline := none
      base := s.base.moveTo s.base.theme s.config.darkFade.toNat s.showClock } := by
  simp [State.wake, h]

theorem State.wake_of_active {s : State} (h : s.nodeState = .active) : s.wake = s := by simp [State.wake, h]

theorem wakeHandled_of_slot {s : State} {origin : ZoneNo} {at_ : Moment} (hr : s.running = true)
    (hs : s.intake.slot = some ⟨⟨origin, .wake⟩, at_⟩) : wakeHandled s = s.complete State.wake := by
  simp [wakeHandled, State.handled, hs, hr]

/-- The time of a fade of the record is 0 exactly if its byte is. -/
theorem Byte.toNat_eq_zero (b : Byte) : b.toNat = 0 ↔ b = 0 := by
  rw [← BitVec.toNat_inj]
  rfl

theorem Base.moveTo_at_once (b : Base) (target : Look) {t : Byte} (now : Clock) (h : t = 0) :
    b.moveTo target t.toNat now = { b with current := target, transition := none } := by
  simp [Base.moveTo, h]

theorem Base.moveTo_in_steps (b : Base) (target : Look) {t : Byte} (now : Clock) (h : t ≠ 0) :
    b.moveTo target t.toNat now = { b with transition := some ⟨b.current, target, t.toNat, 0, now + 10⟩ } := by
  have ht : t.toNat ≠ 0 := mt (Byte.toNat_eq_zero t).1 h
  simp only [Base.moveTo, if_neg ht]
  rfl

/-! ## The drain -/

theorem LayerStack.settled_iff (st : LayerStack) : st.settled = true ↔ ∀ l ∈ st.layers, l.state = .held := by
  simp [LayerStack.settled]

theorem State.drainCheck_of_settled {s : State} (hn : s.nodeState = .draining .proper)
    (h : ∀ l ∈ s.stack.layers, l.state = .held) : s.drainCheck = s.beginDarkPhase.darkCheck := by
  simp [State.drainCheck, hn, s.stack.settled_iff.2 h]

theorem State.drainCheck_of_unsettled {s : State} (hn : s.nodeState = .draining .proper)
    (h : ∃ l ∈ s.stack.layers, l.state ≠ .held) : s.drainCheck = s := by
  have hs : s.stack.settled ≠ true := fun h0 => by
    obtain ⟨l, hl, hne⟩ := h
    exact hne (s.stack.settled_iff.1 h0 l hl)
  simp [State.drainCheck, hn, hs]

theorem drainTimerExpiry_of_due {s : State} {d : Clock} (hn : s.nodeState = .draining .proper)
    (hd : s.drainDeadline = some d) (hr : reached s.showClock d = true) :
    drainTimerExpiry s = s.beginDarkPhase.darkCheck := by
  simp [drainTimerExpiry, hn, hd, due_some hr]

/-- The layers of the dark phase, by the byte of its time (R183). -/
theorem darkFades_eq (t : Byte) (now : Clock) (ls : List Layer) :
    darkFades t.toNat now ls = if t = 0 then [] else
      ls.map fun l => { l with state := .fading, fade := some ⟨l.opacity, t.toNat, 0, now + 10⟩ } := by
  simp only [darkFades, Byte.toNat_eq_zero]
  rfl

theorem Base.moveTo_eq (b : Base) (target : Look) (t : Byte) (now : Clock) :
    b.moveTo target t.toNat now = if t = 0 then { b with current := target, transition := none }
      else { b with transition := some ⟨b.current, target, t.toNat, 0, now + 10⟩ } := by
  split
  next h => exact b.moveTo_at_once target now h
  next h => exact b.moveTo_in_steps target now h

/-! ## The dark order -/

theorem Base.dark_iff (b : Base) : b.dark = true ↔ b.current.level = 0 ∧ b.transition = none := by
  simp [Base.dark]

theorem State.darkCheck_not_dark {s : State}
    (h : ¬(s.base.current.level = 0 ∧ s.base.transition = none ∧ s.stack.layers = [])) : s.darkCheck = s := by
  refine if_neg fun h0 => h ?_
  simp only [Bool.and_eq_true, Base.dark_iff, List.isEmpty_iff] at h0
  exact ⟨h0.1.1, h0.1.2, h0.2⟩

theorem State.darkCheck_dark {s : State}
    (h : s.base.current.level = 0 ∧ s.base.transition = none ∧ s.stack.layers = []) :
    s.darkCheck = { s.darkPorts with nodeState := .draining .ordered } := by
  refine if_pos ?_
  simp only [Bool.and_eq_true, Base.dark_iff, List.isEmpty_iff]
  exact ⟨⟨h.1, h.2.1⟩, h.2.2⟩

/-- The dark order at a port that is not dark, its type named: an OFF or PWM port is dark at once, a shift runs to its
end, any other chain begins its dark frame (R173). -/
theorem Port.darkOrder_eq {x : Port} (c : PortConfig) (now : Clock) (h : x.state ≠ .dark) :
    x.darkOrder c now = { x with
      state := .dark
      activity :=
        if c.type = .off ∨ c.type = .pwm then .none else if x.activity = .shifting then .shifting else .darkShifting
      shift :=
        if c.type = .off ∨ c.type = .pwm then none
        else if x.activity = .shifting then x.shift
        else some ⟨darkFrame c, x.sendCount, ⟨now, shiftMicros c⟩⟩
      slot := none
      lastSent := some (darkFrame c)
      refreshDeadline := none
      frameDeadline := none
      failureRun := 0
      probeDeadline := none
      echoTimeout := none
      reportedDark := decide (c.type = .off ∨ c.type = .pwm) } := by
  unfold Port.darkOrder
  rw [if_neg h]
  cases hc : c.type
  case off => rfl
  case pwm => rfl
  all_goals
    by_cases ha : x.activity = .shifting
    · simp [ha, Port.darken]
    · simp [ha, Port.darken, Port.beginDark, Shift.start]

/-- Settles O52: the drain's end, what the dark phase begins with, and the dark order port by port. -/
theorem drainsEnd : Obligations.DrainsEnd := by
  refine ⟨fun s d hn hd hr => congrArg Host.Outcome.next (drainTimerExpiry_of_due hn hd hr), fun s => ?tests,
    fun s => ?phase, fun s => ⟨State.darkCheck_not_dark, ?order⟩⟩
  case tests =>
    refine ⟨State.drainCheck_of_settled, State.drainCheck_of_unsettled, fun hn => ?dark, ?stays⟩
    case dark => simp [State.drainCheck, hn]
    case stays => rintro (hn | hn) <;> simp [State.drainCheck, hn]
  case phase =>
    intro target fade moving
    simp only [State.beginDarkPhase, darkFades_eq, Base.moveTo_eq]
    rfl
  case order =>
    intro hdark hlit ordered
    rw [State.darkCheck_dark hdark]
    have hports : (Vector.ofFn fun p : Fin 4 => s.ports[p].darkOrder s.config.ports[p] s.showClock) = Vector.ofFn ordered :=
      congrArg Vector.ofFn (funext fun p => Port.darkOrder_eq _ _ (hlit p))
    exact congrArg (fun ps => { s with
      nodeState := .draining .ordered, ports := ps, pwm := Vector.replicate 12 0 }) hports

end Sys2Proof.Machine

/-! ## The obligation of the name of a command -/

namespace Sys2Proof

open Machine

/-- Settles O51: the state after the WAKE's effect is the witness, and each port is as `Port.backToWork` leaves it. -/
theorem wakeHandled : Obligations.WakeHandled := by
  intro s origin at_ hs
  constructor
  case left =>
    intro ha
    refine congrArg Host.Outcome.next ((wakeHandled_of_slot (State.running_of_active ha) hs).trans ?_)
    exact State.complete_congr_node fun u hu => State.wake_of_active (hu.trans ha)
  case right =>
    intro phase hd
    have hwake := State.wake_of_draining hd
    refine ⟨s.wake, ?effect, ?theme, ?atOnce, ?inSteps, fun p => ?port⟩
    case effect =>
      refine congrArg Host.Outcome.next ((wakeHandled_of_slot (State.running_of_draining hd) hs).trans ?_)
      refine State.complete_congr ?_
      rw [hwake]
      exact State.wake_of_draining (s := { s with intake := { s.intake with slot := none } }) hd
    case theme =>
      rw [hwake]
      dsimp only
      rw [Base.moveTo_eq]
      split <;> rfl
    case atOnce =>
      intro hc
      rw [hwake]
      dsimp only
      rw [Base.moveTo_at_once _ _ _ hc]
      exact ⟨rfl, rfl⟩
    case inSteps =>
      intro hc
      rw [hwake]
      dsimp only
      rw [Base.moveTo_in_steps _ _ _ hc]
      exact ⟨rfl, rfl⟩
    case port =>
      have hy : s.wake.ports[p] = s.ports[p].backToWork s.config.ports[p] s.showClock := by
        rw [hwake]
        simp [State.returnPorts]
      rw [hy]
      intro x y c busy
      refine ⟨fun hx => Port.backToWork_lit _ _ hx, fun hx hc => ?off, fun hx hc => ?chain⟩
      case off =>
        have hoff : y = _ := Port.backToWork_off _ hx hc
        simp [hoff, Port.powerOn]
      case chain =>
        by_cases hb : busy
        · rw [show y = _ from Port.backToWork_busy _ hx hc hb]
          exact ⟨fun _ => ⟨rfl, rfl, rfl, rfl⟩, absurd hb, rfl, rfl, rfl, rfl, rfl, rfl, rfl, rfl, rfl⟩
        · rw [show y = _ from Port.backToWork_free _ hx hc hb]
          exact ⟨fun h => absurd h hb, fun _ => ⟨rfl, rfl, rfl⟩, rfl, rfl, rfl, rfl, rfl, rfl, rfl, rfl, rfl⟩

end Sys2Proof
end

section
/-! SUPPORT. O36, O37, O48: the cap term, the dimmer ramp, and the base. -/

namespace Sys2Proof.Machine

/-! ## The cap target -/

theorem lower_mem (a b : Byte) : lower a b = a ∨ lower a b = b := by
  unfold lower
  split
  · exact .inl rfl
  · exact .inr rfl

theorem higher_toNat (a b : Byte) : (higher a b).toNat = max a.toNat b.toNat := by
  unfold higher
  split <;> omega

theorem foldl_lower_le_mem {cs : List Byte} {x : Byte} (hx : x ∈ cs) (c : Byte) : (cs.foldl lower c).toNat ≤ x.toNat := by
  induction cs generalizing c with
  | nil => cases hx
  | cons y ys ih =>
    rcases List.mem_cons.1 hx with rfl | hx
    · exact (foldl_lower_le ys (lower c x)).trans (lower_le_right c x)
    · exact ih hx _

/-- The lowest of a list is one of it. -/
theorem foldl_lower_mem (cs : List Byte) (c : Byte) : cs.foldl lower c = c ∨ cs.foldl lower c ∈ cs := by
  induction cs generalizing c with
  | nil => exact .inl rfl
  | cons y ys ih =>
    rcases ih (lower c y) with h | h
    · rcases lower_mem c y with h' | h'
      · exact .inl (h.trans h')
      · exact .inr (List.mem_cons.2 (.inl (h.trans h')))
    · exact .inr (List.mem_cons_of_mem _ h)

/-- The floored caps that form the cap target are those of the PRESENT LIGHTING entries (R77). -/
theorem mem_flooredCaps {s : State} {x : Byte} :
    x ∈ s.roster.entries.toList.filterMap (flooredCap s.config.floor) ↔
      ∃ (i : Fin 31) (p : Peer), s.roster.entries[i] = some p ∧ p.kind = .lighting ∧ x = higher s.config.floor p.cap := by
  have hcap (e : Option Peer) : flooredCap s.config.floor e = some x ↔
      ∃ p, e = some p ∧ p.kind = .lighting ∧ x = higher s.config.floor p.cap := by
    cases e with
    | none => simp [flooredCap]
    | some p => by_cases hp : p.kind = .lighting <;> simp [flooredCap, hp, eq_comm (a := x)]
  simp only [List.mem_filterMap, hcap, Vector.mem_toList_iff, Vector.mem_iff_getElem]
  constructor
  · rintro ⟨e, ⟨i, hi, rfl⟩, p, hp, hk, hx⟩
    exact ⟨⟨i, hi⟩, p, hp, hk, hx⟩
  · rintro ⟨i, p, hp, hk, hx⟩
    exact ⟨_, ⟨i, i.isLt, rfl⟩, p, hp, hk, hx⟩

theorem target_le_flooredCap {s : State} {i : Fin 31} {p : Peer} (hp : s.roster.entries[i] = some p)
    (hk : p.kind = .lighting) : s.target.toNat ≤ max s.config.floor.toNat p.cap.toNat := by
  rw [← higher_toNat]
  exact foldl_lower_le_mem (mem_flooredCaps.2 ⟨i, p, hp, hk, rfl⟩) _

theorem target_attained (s : State) :
    s.target = s.supply.ownCap ∨
      ∃ (i : Fin 31) (p : Peer), s.roster.entries[i] = some p ∧ p.kind = .lighting ∧
        s.target.toNat = max s.config.floor.toNat p.cap.toNat := by
  refine (foldl_lower_mem _ _).imp_right fun h => ?_
  obtain ⟨i, p, hp, hk, hx⟩ := mem_flooredCaps.1 h
  exact ⟨i, p, hp, hk, (congrArg BitVec.toNat hx).trans (higher_toNat _ _)⟩

/-! ## The cap term -/

theorem State.formTarget_falls {s : State} (h : s.target.toNat ≤ s.level.k.toNat) :
    s.formTarget = { s with level := { s.level with
      k := s.target, a := lower s.level.d s.target, slewDeadline := none } } := by
  simp [State.formTarget, Level.meet, Level.formA, h]

theorem State.formTarget_slews {s : State} (h : s.level.k.toNat < s.target.toNat) :
    s.formTarget = { s with level := { s.level with
      slewDeadline := some (s.level.slewDeadline.getD (s.showClock + 10)) } } := by
  simp only [State.formTarget, Level.meet, if_neg (Nat.not_le.2 h)]
  rfl

theorem slewStep_of_reached {s : State} {d : Clock} (hr : s.running = true) (hd : s.level.slewDeadline = some d)
    (hc : reached s.showClock d = true) :
    slewStep s = { s with level := s.level.slewStep s.config.slew s.target d } := by
  simp [slewStep, hd, hr, hc]

/-- Settles O36: the lowest of a list, the two cases of a target just formed, and a slew step. -/
theorem capTermFollowsTheTarget : Obligations.CapTermFollowsTheTarget := by
  refine ⟨fun s => ⟨target_le_ownCap s, fun i p => target_le_flooredCap, target_attained s⟩,
    fun s => ⟨State.formTarget_falls, fun h => ⟨fun d hd => ?goesOn, fun hn => ?begins⟩⟩, ?step⟩
  case goesOn =>
    rw [State.formTarget_slews h, hd, Option.getD_some, ← hd]
  case begins =>
    rw [State.formTarget_slews h, hn, Option.getD_none]
  case step =>
    intro s d hr hd hc k
    refine congrArg Host.Outcome.next ((slewStep_of_reached hr hd hc).trans ?_)
    have hk : (slewed s.level.k s.config.slew s.target).toNat < s.target.toNat ↔
        s.level.k.toNat + s.config.slew.toNat < s.target.toNat := by
      rw [slewed_toNat]
      omega
    simp only [Level.slewStep, Level.formA, hk]
    rfl

/-! ## The dimmer -/

theorem dimHandled_of_slot {s : State} {origin : ZoneNo} {level time : Byte} {at_ : Moment} (hr : s.running = true)
    (hs : s.intake.slot = some ⟨⟨origin, .dim level time⟩, at_⟩) :
    dimHandled s = s.complete fun u => { u with level := u.level.dim level time.toNat u.showClock } := by
  simp [dimHandled, State.handled, hs, hr]

theorem dimmerRampStep_of_reached {s : State} {r : Ramp} (hr : s.running = true) (hs : s.level.ramp = some r)
    (hd : reached s.showClock r.deadline = true) : dimmerRampStep s = { s with level := s.level.rampStep r } := by
  simp [dimmerRampStep, hs, hr, hd]

/-- A step before the last lies on the line from start to target, and the last one at the target (R80, R151). -/
theorem glide_step (a b : Byte) {j t : Nat} (h : j < t) :
    ((glide a b (j + 1) t).toNat : Int) = a.toNat + (((b.toNat : Int) - a.toNat) * (j + 1 : Nat)).tdiv t ∧
      (j + 1 = t → glide a b (j + 1) t = b) := by
  refine ⟨glide_toNat a b h, ?_⟩
  rintro rfl
  exact glide_all a b (Nat.succ_pos _)

/-- Settles O37: a DIM's effect, and a step of the ramp on its line. -/
theorem dimmerRamps : Obligations.DimmerRamps := by
  refine ⟨fun s origin target time at_ hr hs => ⟨fun ht => ?atOnce, fun ht => ?inSteps⟩, fun s r hr hs hd hlt => ?step⟩
  case atOnce =>
    refine congrArg Host.Outcome.next ((dimHandled_of_slot hr hs).trans ?_)
    rw [ht]
    rfl
  case inSteps =>
    refine congrArg Host.Outcome.next ((dimHandled_of_slot hr hs).trans (State.complete_congr ?_))
    simp only [Level.dim, if_neg (mt (Byte.toNat_eq_zero time).1 ht)]
    rfl
  case step =>
    obtain ⟨hline, hlast⟩ := glide_step r.start r.target hlt
    exact ⟨_, hline, hlast, congrArg Host.Outcome.next (dimmerRampStep_of_reached hr hs hd)⟩

/-! ## The base -/

theorem themeHandled_of_slot {s : State} {origin : ZoneNo} {colour : Colour} {level time : Byte} {at_ : Moment}
    (hr : s.running = true) (hs : s.intake.slot = some ⟨⟨origin, .theme colour level time⟩, at_⟩) :
    themeHandled s = s.complete fun u => u.setTheme ⟨colour, level⟩ time.toNat := by
  simp [themeHandled, State.handled, hs, hr]

theorem State.pastDrainEnd_iff (s : State) :
    s.pastDrainEnd = true ↔ s.nodeState = .draining .dark ∨ s.nodeState = .draining .ordered := by
  unfold State.pastDrainEnd
  split <;> simp_all

theorem transitionStep_of_reached {s : State} {tr : Transition} (hr : s.running = true) (ht : s.base.transition = some tr)
    (hd : reached s.showClock tr.deadline = true) :
    transitionStep s = { s with base := s.base.step tr }.drainCheck := by
  simp [transitionStep, ht, hr, hd]

/-- Settles O48: a THEME's effect, and a step of the transition in each channel and the level. -/
theorem themesAndTransitions : Obligations.ThemesAndTransitions := by
  refine ⟨fun s origin colour level time at_ hr hs => ?theme, fun s tr hr ht hd hlt => ?step⟩
  case theme =>
    refine congrArg Host.Outcome.next ((themeHandled_of_slot hr hs).trans (State.complete_congr ?_))
    simp only [State.setTheme, State.pastDrainEnd_iff, Base.moveTo_eq]
  case step =>
    exact ⟨glideLook tr.start tr.target (tr.taken + 1) tr.steps, glide_step _ _ hlt, glide_step _ _ hlt, glide_step _ _ hlt,
      glide_step _ _ hlt, congrArg Host.Outcome.next (transitionStep_of_reached hr ht hd)⟩

end Sys2Proof.Machine
end

section
/-! SUPPORT. O49, O54: notices, reports, and the frame events of the ports. -/

namespace Sys2Proof.Machine

/-! ## Notices -/

/-- The bit of a notice is the bit of its number, and no other (R187). -/
theorem Notice.bit_getLsbD (n : Notice) (k : Nat) : n.bit.getLsbD k = decide (k = n.number) := by
  have hn : n.number < 16 := by cases n <;> decide
  simp only [Notice.bit, BitVec.getLsbD_shiftLeft, BitVec.getLsbD_one]
  by_cases hk : k = n.number
  · simp [hk, hn]
  · simp only [hk, decide_false, Bool.and_eq_false_iff, Bool.not_eq_false', decide_eq_true_eq, decide_eq_false_iff_not]
    omega

/-- The groups are the notices 0 to 5, 6 to 11 and 12 to 15 (R187). -/
theorem GroupFlags.put_group (f : GroupFlags) (v : Bool) (n : Notice) :
    f.put v n.group = if n.number < 6 then { f with cue := v }
      else if n.number < 12 then { f with bus := v } else { f with output := v } := by
  cases n <;> rfl

theorem clearHandled_of_slot {s : State} {origin target : ZoneNo} {mask : BitVec 16} {at_ : Moment}
    (hr : s.running = true) (hs : s.intake.slot = some ⟨⟨origin, .clear target mask⟩, at_⟩) :
    clearHandled s = s.complete fun u => u.clearNotices mask := by
  simp [clearHandled, State.handled, hs, hr]

theorem statusHandled_of_slot {s : State} {origin : ZoneNo} {body : List Byte} {at_ : Moment}
    (hr : s.running = true) (hs : s.intake.slot = some ⟨⟨origin, .status body⟩, at_⟩) :
    statusHandled s = s.complete id := by
  simp [statusHandled, State.handled, hs, hr]

/-- Settles O49: what a raise sets and removes, and what a report and a clear read and write. -/
theorem noticesAndReports : Obligations.NoticesAndReports := by
  refine ⟨fun s n => ⟨fun k => ?bit, s.status.groupNew.put_group true n, ?marks, rfl, rfl⟩, rfl,
    fun s origin at_ hr => ⟨fun target mask hs => ?clear, fun target hs => ?query, fun body hs => ?status⟩⟩
  case bit => simp [Status.raise, Notice.bit_getLsbD]
  case marks => simp only [State.raise_entries, funext fun e : SendEntry => show SendEntry.unmark n.group e = _ from
      congrArg (fun g => { e with clearMarks := g }) (e.clearMarks.put_group false n)]
  case clear => exact congrArg Host.Outcome.next (clearHandled_of_slot hr hs)
  case query => exact congrArg Host.Outcome.next (queryHandled_of_slot hr hs)
  case status => exact congrArg Host.Outcome.next (statusHandled_of_slot hr hs)

/-! ## Frame events -/

/-- Change detection discards a frame equal to the last one before the refresh deadline with no forced send (R165). -/
theorem Port.keeps_eq_false (x : Port) (now : Clock) (f : PixelFrame) :
    x.keeps now f = false ↔
      x.lastSent = some f ∧ (∃ r, x.refreshDeadline = some r ∧ reached now r = false) ∧ x.forced = false := by
  simp [Port.keeps, Option.any_eq_true, and_assoc]

theorem PortState.working_iff (st : PortState) :
    st.working = true ↔ st = .idle ∨ st = .shifting ∨ st = .awaitEcho := by
  cases st <;> simp [PortState.working]

theorem Port.nextFrame_of_deadline {x : Port} {d : Clock} (h : x.frameDeadline = some d) (c : PortConfig) :
    x.nextFrame c = { x with frameDeadline := some (d + BitVec.ofNat 32 c.framePeriod) } := by
  simp only [Port.nextFrame, h, Option.map_some]
  rfl

/-- A frame recorded as the last one sent, off a CONFIRMED port (R167). -/
theorem Port.record_uncounted {x : Port} {c : PortConfig} (h : c.type ≠ .confirmed) (now : Clock) (f : PixelFrame) :
    x.record c now f = { x with
      slot := none
      lastSent := some f
      refreshDeadline := some (now + BitVec.ofNat 32 c.refreshInterval)
      forced := false } := by
  simp only [Port.record, if_neg h]
  rfl

theorem State.setPort_setPort (s : State) (p : Fin 4) (x y : Port) : (s.setPort p x).setPort p y = s.setPort p y := by
  simp [State.setPort]

theorem pwmChannel_eq (f : PixelFrame) (k : Nat) :
    pwmChannel f k = match f[k / 3]? with
      | none => 0
      | some pixel => if k % 3 = 0 then pixel.red else if k % 3 = 1 then pixel.green else pixel.blue := by
  unfold pwmChannel
  cases f[k / 3]? with
  | none => rfl
  | some c =>
    dsimp only
    split <;> simp_all

theorem portFrameEvent_of_due {s : State} {p : Fin 4} {d : Clock} (hr : s.running = true)
    (hd : s.ports[p].frameDeadline = some d) (hc : reached s.showClock d = true) :
    portFrameEvent p s =
      if s.ports[p].state.working then (s.setPort p (s.ports[p].nextFrame s.config.ports[p])).frameEvent p
      else s.setPort p (s.ports[p].nextFrame s.config.ports[p]) := by
  refine if_pos ?_
  rw [hr, hd, due_some hc]
  rfl

theorem State.frameEvent_discards {s : State} {p : Fin 4} (h : s.ports[p].keeps s.showClock (s.compose p) = false) :
    s.frameEvent p = s := if_neg (by simpa using h)

theorem State.frameEvent_keeps {s : State} {p : Fin 4} (h : s.ports[p].keeps s.showClock (s.compose p) ≠ false) :
    s.frameEvent p = s.post p (s.compose p) := if_pos (by simpa using h)

theorem State.post_idle_pwm {s : State} {p : Fin 4} (hs : s.ports[p].state = .idle) (hc : s.config.ports[p].type = .pwm)
    (f : PixelFrame) :
    s.post p f = { s.setPort p (s.ports[p].record s.config.ports[p] s.showClock f) with pwm := pwmChannels f } := by
  simp only [State.post, hs, if_pos hc]

theorem State.post_idle_chain {s : State} {p : Fin 4} (hs : s.ports[p].state = .idle)
    (hc : s.config.ports[p].type ≠ .pwm) (f : PixelFrame) :
    s.post p f = s.setPort p (s.ports[p].beginSend s.config.ports[p] s.showClock f) := by
  simp only [State.post, hs, if_neg hc]

theorem State.post_busy {s : State} {p : Fin 4} (hs : s.ports[p].state = .shifting ∨ s.ports[p].state = .awaitEcho)
    (f : PixelFrame) :
    s.post p f = (s.setPort p { s.ports[p] with slot := some f }).raiseIf s.ports[p].slot.isSome .frameSkipped := by
  rcases hs with hs | hs <;> simp only [State.post, hs]

/-- Settles O54: in the state that has the next frame deadline, the composed frame is discarded, sent, or put in the
slot. -/
theorem portFrameEvents : Obligations.PortFrameEvents := by
  intro s p d hr hd hdue c f x count begun discarded working channel
  let u := s.setPort p x
  have hx : s.ports[p].nextFrame s.config.ports[p] = x := Port.nextFrame_of_deadline hd c
  have hux : u.ports[p] = x := (State.setPort_getElem s p p x).trans (if_pos rfl)
  have hset (y : Port) : u.setPort p y = s.setPort p y := State.setPort_setPort s p x y
  have hkeeps : u.ports[p].keeps u.showClock (u.compose p) = false ↔ discarded := by
    rw [hux]
    exact Port.keeps_eq_false x s.showClock f
  have hexec (hw : x.state.working = true) : exec (.portFrameEvent p) s = .next (u.frameEvent p) := by
    refine congrArg Host.Outcome.next ((portFrameEvent_of_due hr hd hdue).trans ?_)
    rw [hx]
    exact if_pos hw
  have hpost (hw : x.state.working = true) (hk : ¬discarded) : exec (.portFrameEvent p) s = .next (u.post p f) :=
    (hexec hw).trans (congrArg Host.Outcome.next (State.frameEvent_keeps (mt hkeeps.1 hk)))
  refine ⟨fun hs => ?faulted, fun hw hk => ?discarded, fun hs hk hc => ?pwm, fun hs hk hc => ?chain, fun hs hk => ?busy⟩
  case faulted =>
    refine congrArg Host.Outcome.next ((portFrameEvent_of_due hr hd hdue).trans ?_)
    rw [hx]
    exact if_neg (by rw [show s.ports[p].state = .faulted from hs]; decide)
  case discarded =>
    rw [hexec ((PortState.working_iff _).2 hw), State.frameEvent_discards (hkeeps.2 hk)]
    rfl
  case pwm =>
    have hidle : u.ports[p].state = .idle := by rw [hux, hs]
    have hrecord : x.record c s.showClock f = begun :=
      Port.record_uncounted (by rw [show c.type = .pwm from hc]; decide) s.showClock f
    have hchannels : pwmChannels f = Vector.ofFn fun k : Fin 12 => channel k.val :=
      congrArg Vector.ofFn (funext fun k : Fin 12 => pwmChannel_eq f k)
    rw [hpost ((PortState.working_iff _).2 (.inl hs)) hk, State.post_idle_pwm hidle hc, hux, hset, ← hchannels, ← hrecord]
    rfl
  case chain =>
    have hidle : u.ports[p].state = .idle := by rw [hux, hs]
    rw [hpost ((PortState.working_iff _).2 (.inl hs)) hk, State.post_idle_chain hidle hc, hux, hset]
    rfl
  case busy =>
    intro t
    have hbusy : u.ports[p].state = .shifting ∨ u.ports[p].state = .awaitEcho := by rwa [hux]
    rw [hpost ((PortState.working_iff _).2 (.inr hs)) hk, State.post_busy hbusy, hux, hset]
    show Host.Outcome.next (t.raiseIf x.slot.isSome .frameSkipped) = _
    cases x.slot <;> rfl

end Sys2Proof.Machine
end

section
/-! SUPPORT. O55: what goes out on the pins, how long it lasts, and how it ends. -/

namespace Sys2Proof.Machine

/-! ## Bits -/

theorem msbFirst_append {n m : Nat} (x : BitVec n) (y : BitVec m) : msbFirst (x ++ y) = msbFirst x ++ msbFirst y := by
  unfold msbFirst
  rw [List.range_add, List.map_append, List.map_map]
  congr 1
  · refine List.map_congr_left fun i hi => ?_
    have hi : i < n := List.mem_range.1 hi
    simp [BitVec.getMsbD_append, hi]
  · refine List.map_congr_left fun i _ => ?_
    simp [BitVec.getMsbD_append]

theorem msbFirst_byte (v : Byte) : msbFirst v = (List.range 8).map fun i => v.getLsbD (7 - i) := by
  refine List.map_congr_left fun i hi => ?_
  have hi : i < 8 := List.mem_range.1 hi
  simp [BitVec.getMsbD, hi]

/-- A 16-bit word is its high byte and its low byte. -/
theorem word_bytes (x : BitVec 16) : x.extractLsb' 8 8 ++ x.extractLsb' 0 8 = x := by
  ext i hi
  simp only [BitVec.getElem_append, BitVec.getElem_extractLsb']
  split
  · simp [BitVec.getLsbD_eq_getElem hi]
  · rw [show 8 + (i - 8) = i by omega, BitVec.getLsbD_eq_getElem hi]

theorem msbFirst_marker (p : Fin 4) (count : BitVec 16) :
    msbFirst (marker p count) =
      msbFirst 0x5A#8 ++ msbFirst (BitVec.ofNat 8 p.val) ++ msbFirst (count.extractLsb' 8 8) ++
        msbFirst (count.extractLsb' 0 8) := by
  conv_lhs => rw [marker, ← word_bytes count]
  simp only [msbFirst_append, List.append_assoc]

/-! ## The pins -/

section Uses

variable {pin : Pin} {c : PortConfig}

theorem Pin.use_data (hp : pin ∈ [Pin.s0d, .s1d, .s2d, .s3 0]) (hc : c.type = .stream ∨ c.type = .confirmed) :
    pin.use c = .data := by
  simp only [List.mem_cons, List.not_mem_nil, or_false] at hp
  rcases hp with rfl | rfl | rfl | rfl
  case inr.inr.inr => rcases hc with hc | hc <;> simp [Pin.use, hc]
  all_goals exact if_pos hc

theorem Pin.use_clock (hp : pin ∈ [Pin.s2c, .s3 1]) (hc : c.type = .confirmed) : pin.use c = .clock := by
  simp only [List.mem_cons, List.not_mem_nil, or_false] at hp
  rcases hp with rfl | rfl <;> simp [Pin.use, hc]

theorem Pin.use_echo (hp : pin ∈ [Pin.s2e, .s3 2]) (hc : c.type = .confirmed) : pin.use c = .echo := by
  simp only [List.mem_cons, List.not_mem_nil, or_false] at hp
  rcases hp with rfl | rfl <;> simp [Pin.use, hc]

theorem Pin.use_channel {k : Fin 12} (hp : pin = .s3 k) (hc : c.type = .pwm) (hk : k.val < 3 * c.pixels) :
    pin.use c = .channel k := by
  subst hp
  simp [Pin.use, hc, hk]

/-- A pin of none of the four uses is unused (R161). -/
theorem Pin.use_unused (hd : ¬(pin ∈ [Pin.s0d, .s1d, .s2d, .s3 0] ∧ (c.type = .stream ∨ c.type = .confirmed)))
    (hk : ¬(pin ∈ [Pin.s2c, .s3 1] ∧ c.type = .confirmed)) (he : ¬(pin ∈ [Pin.s2e, .s3 2] ∧ c.type = .confirmed))
    (hch : ∀ k : Fin 12, ¬(pin = .s3 k ∧ c.type = .pwm ∧ k.val < 3 * c.pixels)) : pin.use c = .unused := by
  cases pin
  case s3 k =>
    have hch : c.type = .pwm → ¬k.val < 3 * c.pixels := fun h0 h1 => hch k ⟨rfl, h0, h1⟩
    cases hc : c.type <;> simp_all [Pin.use]
  all_goals simp_all [Pin.use]

end Uses

section Drives

variable {x : Port} {sh : Shift}

theorem Port.drive_data_shift (h : x.shift = some sh) (t : PortType) (p : Fin 4) (pwm : Vector Byte 12) :
    x.drive t p pwm .data = .shifts (sendBits t p sh.frame sh.count) := by
  simp only [Port.drive, h]

theorem Port.drive_clock_shift (h : x.shift ≠ none) (t : PortType) (p : Fin 4) (pwm : Vector Byte 12) :
    x.drive t p pwm .clock = .clocks := if_pos (Option.isSome_iff_ne_none.2 h)

theorem Port.drive_rest (h : x.shift = none) (t : PortType) (p : Fin 4) (pwm : Vector Byte 12) {u : PinUse}
    (hu : u = .data ∨ u = .clock) : x.drive t p pwm u = if x.state = .dark then .low else .rest := by
  rcases hu with rfl | rfl <;> simp [Port.drive, h]

theorem Port.drive_echo (t : PortType) (p : Fin 4) (pwm : Vector Byte 12) :
    x.drive t p pwm .echo = if x.activity = .echoWait then .watched else if x.state = .dark then .low else .rest := rfl

end Drives

theorem Pin.port_eq (pin : Pin) : pin.port = match pin with
    | .s0d => 0
    | .s1d => 1
    | .s2d | .s2c | .s2e => 2
    | .s3 _ => 3 := by
  cases pin <;> rfl

/-! ## The ends of shifts -/

section Ends

variable {s : State} {p : Fin 4}

theorem sendFinish_of_shifting (hr : s.running = true) (hc : s.config.ports[p].type = .stream)
    (ha : s.ports[p].activity = .shifting) (hs : s.ports[p].state = .shifting) :
    sendFinish p s = s.setPort p (s.ports[p].finish s.config.ports[p] s.showClock) := by
  simp only [sendFinish, hr, hc, ha, hs, decide_true, Bool.and_self, if_true]

theorem sendFinish_of_dark (hr : s.running = true) (hc : s.config.ports[p].type = .stream)
    (ha : s.ports[p].activity = .shifting) (hs : s.ports[p].state = .dark) :
    sendFinish p s = s.setPort p (s.ports[p].beginDark s.config.ports[p] s.showClock) := by
  simp only [sendFinish, hr, hc, ha, hs, decide_true, Bool.and_self, if_true]

theorem markerShifted_of_checked (hr : s.running = true) (hc : s.config.ports[p].type = .confirmed)
    (ha : s.ports[p].activity = .shifting) (hs : s.ports[p].state = .shifting) (he : s.ports[p].checkEcho = true) :
    markerShifted p s = s.setPort p { s.ports[p].beginEchoWait s.showClock with state := .awaitEcho } := by
  simp only [markerShifted, hr, hc, ha, hs, he, decide_true, Bool.and_self, if_true]

theorem markerShifted_of_unchecked (hr : s.running = true) (hc : s.config.ports[p].type = .confirmed)
    (ha : s.ports[p].activity = .shifting) (hs : s.ports[p].state = .shifting) (he : s.ports[p].checkEcho = false) :
    markerShifted p s = s.setPort p (s.ports[p].finish s.config.ports[p] s.showClock) := by
  simp only [markerShifted, hr, hc, ha, hs, he, decide_true, Bool.and_self, if_true, Bool.false_eq_true, if_false]

theorem markerShifted_of_faulted (hr : s.running = true) (hc : s.config.ports[p].type = .confirmed)
    (ha : s.ports[p].activity = .shifting) (hs : s.ports[p].state = .faulted) :
    markerShifted p s = s.setPort p (s.ports[p].beginEchoWait s.showClock) := by
  simp only [markerShifted, hr, hc, ha, hs, decide_true, Bool.and_self, if_true]

theorem markerShifted_of_dark (hr : s.running = true) (hc : s.config.ports[p].type = .confirmed)
    (ha : s.ports[p].activity = .shifting) (hs : s.ports[p].state = .dark) :
    markerShifted p s = s.setPort p (s.ports[p].beginDark s.config.ports[p] s.showClock) := by
  simp only [markerShifted, hr, hc, ha, hs, decide_true, Bool.and_self, if_true]

theorem darkFrameSent_of_dark (hr : s.running = true) (ha : s.ports[p].activity = .darkShifting)
    (hs : s.ports[p].state = .dark) :
    darkFrameSent p s = s.setPort p { s.ports[p] with activity := .none, shift := none, reportedDark := true } := by
  simp only [darkFrameSent, hr, ha, hs, decide_true, Bool.and_self, if_true]

end Ends

/-- Settles O55: the bits of a send and its length, what each use of a pin shows, and the ends of shifts. -/
theorem shiftsEnd : Obligations.ShiftsEnd := by
  refine ⟨fun t p f count => ?bits, fun c => ?lengths, fun s pin p hp => ?pins, fun s p hr => ?ends⟩
  case bits =>
    intro byteBits
    have hbyte (v : Byte) : msbFirst v = byteBits v := msbFirst_byte v
    have hcolour : Colour.bits = fun c => byteBits c.red ++ byteBits c.green ++ byteBits c.blue :=
      funext fun c => by simp only [Colour.bits, hbyte]
    simp only [sendBits, msbFirst_marker, hbyte, hcolour]
    rfl
  case lengths =>
    refine ⟨fun h hs => ?_, fun h hs => ?_, fun h => ?_, fun h => ?_⟩ <;> simp [shiftMicros, sendMicros, echoMicros, *]
  case pins =>
    intro x c data clock echo channel
    have hport : p = pin.port := hp.trans pin.port_eq.symm
    subst hport
    refine ⟨fun hr => State.pin_stopped hr pin, fun hd hk he hch => ?unused, fun hr => ?used⟩
    case unused =>
      cases hr : s.running
      · exact State.pin_stopped hr pin
      · rw [State.pin_running hr, Pin.use_unused hd hk he hch]
        rfl
    case used =>
      rw [State.pin_running hr]
      refine ⟨fun hd sh hsh => ?shifts, fun hk hsh => ?clocks, fun hdk hsh => ?rest, fun he ha => ?watched,
        fun he ha => ?unwatched, fun k hch => ?duty⟩
      case shifts => rw [Pin.use_data hd.1 hd.2, Port.drive_data_shift hsh]
      case clocks => rw [Pin.use_clock hk.1 hk.2, Port.drive_clock_shift hsh]
      case rest =>
        exact Port.drive_rest hsh _ _ _ (hdk.imp (fun hd => Pin.use_data hd.1 hd.2) fun hk => Pin.use_clock hk.1 hk.2)
      case watched => rw [Pin.use_echo he.1 he.2, Port.drive_echo, if_pos ha]
      case unwatched => rw [Pin.use_echo he.1 he.2, Port.drive_echo, if_neg ha]
      case duty =>
        obtain ⟨hk, hc, hlt⟩ := hch
        rw [Pin.use_channel hk hc hlt]
        rfl
  case ends =>
    intro c x set count finished waiting dark
    have hfinish : x.finish c s.showClock = finished := by
      simp only [Port.finish, finished]
      cases x.slot <;> rfl
    refine ⟨fun hc ha => ⟨fun hs => ?_, fun hs => ?_⟩,
      fun hc ha => ⟨fun hs he => ?_, fun hs he => ?_, fun hs => ?_, fun hs => ?_⟩, fun hs ha => ?_⟩
    · exact congrArg Host.Outcome.next ((sendFinish_of_shifting hr hc ha hs).trans (congrArg _ hfinish))
    · exact congrArg Host.Outcome.next (sendFinish_of_dark hr hc ha hs)
    · exact congrArg Host.Outcome.next (markerShifted_of_checked hr hc ha hs he)
    · exact congrArg Host.Outcome.next ((markerShifted_of_unchecked hr hc ha hs he).trans (congrArg _ hfinish))
    · exact congrArg Host.Outcome.next (markerShifted_of_faulted hr hc ha hs)
    · exact congrArg Host.Outcome.next (markerShifted_of_dark hr hc ha hs)
    · exact congrArg Host.Outcome.next (darkFrameSent_of_dark hr ha hs)

end Sys2Proof.Machine
end

section
/-! SUPPORT. O56: the echo check of a send and of a probe. -/

namespace Sys2Proof.Machine

/-- The marker as a number: 0x5A, the port number, the send count (R169). -/
theorem marker_eq_ofNat (p : Fin 4) (count : BitVec 16) :
    marker p count = BitVec.ofNat 32 (0x5A * 2 ^ 24 + p.val * 2 ^ 16 + count.toNat) := by
  have hp := p.isLt
  have hc := count.isLt
  apply BitVec.eq_of_toNat_eq
  rw [marker, BitVec.toNat_append, BitVec.toNat_append, ← Nat.shiftLeft_add_eq_or_of_lt hc,
    ← Nat.shiftLeft_add_eq_or_of_lt (BitVec.isLt _)]
  simp only [BitVec.toNat_ofNat, Nat.shiftLeft_eq]
  omega

section Echo

variable {s : State} {p : Fin 4}

theorem State.awaitsEcho_of (hr : s.running = true) (ha : s.ports[p].activity = .echoWait)
    (hs : s.ports[p].state = .awaitEcho ∨ s.ports[p].state = .faulted) : s.awaitsEcho p = true := by
  simp only [State.awaitsEcho, hr, ha, decide_true, Bool.and_self, Bool.true_and, Bool.or_eq_true, decide_eq_true_eq]
  exact hs

theorem echoArrival_correct (hw : s.awaitsEcho p = true) :
    echoArrival p (marker p s.ports[p].sendCount) s =
      s.setPort p (s.ports[p].echoCorrect s.config.ports[p] s.showClock) := by
  simp only [echoArrival, hw, if_true]

theorem echoArrival_wrong (hw : s.awaitsEcho p = true) {echo : BitVec 32} (he : echo ≠ marker p s.ports[p].sendCount) :
    echoArrival p echo s = s.echoFailed p := by
  simp only [echoArrival, hw, if_true, if_neg he]

theorem echoTimeout_of_waiting (hw : s.awaitsEcho p = true) : echoTimeout p s = s.echoFailed p := if_pos hw

theorem State.echoFailed_probe (hs : s.ports[p].state = .faulted) :
    s.echoFailed p = s.setPort p { s.ports[p] with activity := .none, shift := none, echoTimeout := none } := if_pos hs

/-- A failed check of a send counts; the third in a row makes the port FAULTED (R170). -/
theorem State.echoFailed_send (hs : s.ports[p].state ≠ .faulted) :
    s.echoFailed p =
      if s.ports[p].failureRun < 2 then
        s.setPort p ({ s.ports[p] with failureRun := s.ports[p].failureRun + 1, forced := true }.finish
          s.config.ports[p] s.showClock)
      else (s.setPort p (s.ports[p].fault s.showClock)).raise .portFault := by
  by_cases h : s.ports[p].failureRun < 2
  · simp only [State.echoFailed, if_neg hs, if_pos h, if_neg (Nat.not_le.2 h)]
  · simp only [State.echoFailed, if_neg hs, if_neg h, if_pos (Nat.not_lt.1 h)]

theorem probeDeadline_of_due {d : Clock} (hr : s.running = true) (hs : s.ports[p].state = .faulted)
    (hd : s.ports[p].probeDeadline = some d) (hc : reached s.showClock d = true) :
    probeDeadline p s = s.setPort p (s.ports[p].beginProbe s.config.ports[p] s.showClock (s.compose p)) := by
  simp only [probeDeadline, hr, hs, hd, due_some hc, decide_true, Bool.and_self, if_true]

end Echo

theorem Port.echoCorrect_probe {x : Port} (h : x.state = .faulted) (c : PortConfig) (now : Clock) :
    x.echoCorrect c now = { x with
      state := .idle, activity := .none, shift := none, failureRun := 0, probeDeadline := none, forced := true,
      echoTimeout := none } := if_pos h

theorem Port.echoCorrect_send {x : Port} (h : x.state ≠ .faulted) (c : PortConfig) (now : Clock) :
    x.echoCorrect c now = { x with failureRun := 0 }.finish c now := if_neg h

/-- A shift that begins on a CONFIRMED port steps the send count, and its marker is of the count just stepped (R169). -/
theorem Port.launch_confirmed {c : PortConfig} (hc : c.type = .confirmed) (x : Port) (now : Clock) (f : PixelFrame) :
    x.launch c now f = { x with
      slot := none
      lastSent := some f
      refreshDeadline := some (now + BitVec.ofNat 32 c.refreshInterval)
      forced := false
      sendCount := x.sendCount + 1
      activity := .shifting
      shift := some ⟨f, x.sendCount + 1, ⟨now, shiftMicros c⟩⟩
      checkEcho := true
      echoTimeout := none } := by
  simp only [Port.launch, Port.record, if_pos hc]
  rfl

/-- Settles O56: a check ends right or wrong, of a send or of a probe. -/
theorem echoChecksAndProbes : Obligations.EchoChecksAndProbes := by
  intro s p hr hc c x put mark begun finished faulted failed
  have hmark : mark = marker p x.sendCount := (marker_eq_ofNat p x.sendCount).symm
  have hlaunch (y : Port) (f : PixelFrame) : y.launch c s.showClock f = begun y f := Port.launch_confirmed hc y _ f
  have hfinish (y : Port) : y.finish c s.showClock = finished y := by
    simp only [Port.finish, Port.beginSend, hlaunch, finished]
    cases y.slot <;> rfl
  refine ⟨fun hs ha => ?send, fun hs ha => ?probe, fun d hs hd hdue => ?deadline⟩
  case send =>
    have hne : x.state ≠ .faulted := by
      rw [hs]
      decide
    have hw : s.awaitsEcho p = true := State.awaitsEcho_of hr ha (.inl hs)
    have hfailed : s.echoFailed p = failed := by
      rw [State.echoFailed_send hne]
      exact congrArg (fun y => if x.failureRun < 2 then put y else (put faulted).raise .portFault) (hfinish _)
    refine ⟨?_, fun echo he => ?_, ?_⟩
    · rw [hmark]
      refine congrArg Host.Outcome.next ((echoArrival_correct hw).trans (congrArg put ?_))
      exact (Port.echoCorrect_send hne _ _).trans (hfinish _)
    · exact congrArg Host.Outcome.next ((echoArrival_wrong hw (hmark ▸ he)).trans hfailed)
    · exact congrArg Host.Outcome.next ((echoTimeout_of_waiting hw).trans hfailed)
  case probe =>
    have hw : s.awaitsEcho p = true := State.awaitsEcho_of hr ha (.inr hs)
    have hfailed := State.echoFailed_probe hs
    refine ⟨?_, fun echo he => ?_, ?_⟩
    · rw [hmark]
      exact congrArg Host.Outcome.next ((echoArrival_correct hw).trans (congrArg put (Port.echoCorrect_probe hs _ _)))
    · exact congrArg Host.Outcome.next ((echoArrival_wrong hw (hmark ▸ he)).trans hfailed)
    · exact congrArg Host.Outcome.next ((echoTimeout_of_waiting hw).trans hfailed)
  case deadline =>
    refine congrArg Host.Outcome.next ((probeDeadline_of_due hr hs hd hdue).trans (congrArg put ?_))
    show { x.launch c s.showClock (s.compose p) with probeDeadline := x.probeDeadline.map fun d => later d 1000 } = _
    rw [hlaunch, show x.probeDeadline = some d from hd]
    rfl

end Sys2Proof.Machine
end

section
/-! SUPPORT. O57: the composed frame, pixel by pixel. -/

namespace Sys2Proof.Machine

/-! ## Scaling -/

theorem scale255_toNat (a b : Byte) : (scale255 a b).toNat = a.toNat * b.toNat / 255 := by
  have h : a.toNat * b.toNat ≤ 255 * 255 := Nat.mul_le_mul (by have := a.isLt; omega) (by have := b.isLt; omega)
  simp only [scale255, byteOf, BitVec.toNat_ofNat]
  omega

theorem scale255_le (a b : Byte) : (scale255 a b).toNat ≤ b.toNat := by
  have h : a.toNat * b.toNat ≤ 255 * b.toNat := Nat.mul_le_mul_right _ (by have := a.isLt; omega)
  rw [scale255_toNat]
  omega

/-- Each channel of a scaled colour (R83). -/
theorem scaleColour_toNat (c : Colour) (b : Byte) :
    (scaleColour c b).red.toNat = c.red.toNat * b.toNat / 255 ∧
    (scaleColour c b).green.toNat = c.green.toNat * b.toNat / 255 ∧
    (scaleColour c b).blue.toNat = c.blue.toNat * b.toNat / 255 :=
  ⟨scale255_toNat _ _, scale255_toNat _ _, scale255_toNat _ _⟩

theorem scaleColour_le (c : Colour) (b : Byte) :
    (scaleColour c b).red.toNat ≤ b.toNat ∧ (scaleColour c b).green.toNat ≤ b.toNat ∧
      (scaleColour c b).blue.toNat ≤ b.toNat :=
  ⟨scale255_le _ _, scale255_le _ _, scale255_le _ _⟩

/-! ## The zone path -/

theorem Segment.covers_eq_false (g : Segment) (p : Fin 4) (k : Nat) :
    Segment.covers g p k = false ↔ ¬(g.port = p ∧ g.first ≤ k ∧ k < g.first + g.count) := decide_eq_false_iff_not

/-- Segments that leave a pixel uncovered move the path's offset on (R146). -/
theorem pathIndex_append {p : Fin 4} {k : Nat} {pre : List Segment} (h : ∀ g ∈ pre, Segment.covers g p k = false)
    (post : List Segment) (offset : Nat) :
    pathIndex p k (pre ++ post) offset = pathIndex p k post (offset + (pre.map Segment.count).sum) := by
  induction pre generalizing offset with
  | nil => rfl
  | cons g gs ih =>
    have hg : Segment.covers g p k = false := h g List.mem_cons_self
    simp only [List.cons_append, pathIndex, hg, Bool.false_eq_true, if_false, List.map_cons, List.sum_cons,
      ih fun x hx => h x (List.mem_cons_of_mem _ hx), Nat.add_assoc]

theorem pathIndex_uncovered {p : Fin 4} {k : Nat} {gs : List Segment} (h : ∀ g ∈ gs, Segment.covers g p k = false)
    (offset : Nat) : pathIndex p k gs offset = none := by
  have hnil := pathIndex_append h [] offset
  rwa [List.append_nil] at hnil

theorem pathIndex_covered {p : Fin 4} {k : Nat} {pre post : List Segment} {g : Segment}
    (h : ∀ x ∈ pre, Segment.covers x p k = false) (hg : Segment.covers g p k = true) (offset : Nat) :
    pathIndex p k (pre ++ g :: post) offset = some (offset + (pre.map Segment.count).sum + segmentPosition g k) := by
  rw [pathIndex_append h]
  exact if_pos hg

/-! ## Pixels -/

theorem State.pixel_off_path {s : State} {p : Fin 4} {k : Nat} (h : pathIndex p k s.config.segments 0 = none) :
    s.pixel p k = Colour.black := by
  simp only [State.pixel, h]

theorem State.pixel_on_path {s : State} {p : Fin 4} {k i : Nat} (h : pathIndex p k s.config.segments 0 = some i) :
    s.pixel p k = scaleColour (composite s.base s.stack.layers (pathLength s.config.segments) i) s.level.a := by
  simp only [State.pixel, h]

/-- No channel of a pixel is above A (R83). -/
theorem State.pixel_le (s : State) (p : Fin 4) (k : Nat) :
    (s.pixel p k).red.toNat ≤ s.level.a.toNat ∧ (s.pixel p k).green.toNat ≤ s.level.a.toNat ∧
      (s.pixel p k).blue.toNat ≤ s.level.a.toNat := by
  cases h : pathIndex p k s.config.segments 0 with
  | none =>
    rw [State.pixel_off_path h]
    exact ⟨Nat.zero_le _, Nat.zero_le _, Nat.zero_le _⟩
  | some i =>
    rw [State.pixel_on_path h]
    exact scaleColour_le _ _

/-! ## Blends -/

theorem blendChannel_add_toNat (below l o : Byte) :
    (blendChannel .add below l o).toNat = min 255 (below.toNat + l.toNat * o.toNat / 255) := by
  simp only [blendChannel, byteOf, BitVec.toNat_ofNat]
  omega

theorem blendChannel_max_toNat (below l o : Byte) :
    (blendChannel .max below l o).toNat = max below.toNat (l.toNat * o.toNat / 255) := by
  simp only [blendChannel, higher_toNat, scale255_toNat]

theorem blendChannel_dim_toNat (below l o : Byte) :
    (blendChannel .dim below l o).toNat = below.toNat * (255 - (255 - l.toNat) * o.toNat / 255) / 255 := by
  have h : below.toNat * (255 - (255 - l.toNat) * o.toNat / 255) ≤ 255 * 255 :=
    Nat.mul_le_mul (by have := below.isLt; omega) (Nat.sub_le _ _)
  simp only [blendChannel, byteOf, BitVec.toNat_ofNat]
  omega

/-! ## The obligation -/

/-- Settles O57: the path index of a pixel, the composite layer by layer, and the blends' channels. -/
theorem framesAreComposed : Obligations.FramesAreComposed := by
  refine ⟨fun s p k => ⟨by simp [State.compose], ?frame, fun h => ?off, ?on, s.pixel_le p k⟩,
    fun b n i => scaleColour_toNat _ _, fun b below l n i => ?layer,
    fun below l o => ⟨glide_toNat _ _ ?opacity, blendChannel_add_toNat _ _ _, blendChannel_max_toNat _ _ _,
      blendChannel_dim_toNat _ _ _⟩⟩
  case frame =>
    intro hk
    rw [State.compose, List.getElem?_map, List.getElem?_range hk]
    rfl
  case off =>
    exact State.pixel_off_path (pathIndex_uncovered (fun g hg => (Segment.covers_eq_false g p k).2 (h g hg)) 0)
  case on =>
    intro pre post g hs hpre hg n i c
    have hi : pathIndex p k s.config.segments 0 = some i := by
      rw [hs, pathIndex_covered (fun x hx => (Segment.covers_eq_false x p k).2 (hpre x hx)) (decide_eq_true hg), Nat.zero_add]
      rfl
    rw [State.pixel_on_path hi]
    exact scaleColour_toNat _ _
  case layer =>
    intro v
    have hv : composite b (below ++ [l]) n i = l.over n i v := by simp [composite, v]
    rw [hv]
    exact ⟨fun h => by simp only [Layer.over, h], fun c h => by simp only [Layer.over, h]; rfl⟩
  case opacity =>
    have := o.isLt
    omega

end Sys2Proof.Machine
end

section
/-! SUPPORT. O44, O46, O47: lists with one record or one layer of a key, taken apart around it; then the deadlines of
records, the phases of layers and their fades. -/

namespace Sys2Proof.Machine

/-! ## A list around its one record of a key -/

section Cues

variable {k : CueKey} {pre post : List CueRecord} {c : CueRecord}

theorem findCue_absent {cs : List CueRecord} (h : ∀ x ∈ cs, x.key ≠ k) : findCue k cs = none := by
  simpa [findCue] using h

theorem findCue_split (hc : c.key = k) (h : ∀ x ∈ pre ++ post, x.key ≠ k) : findCue k (pre ++ c :: post) = some c := by
  have hpre : findCue k pre = none := findCue_absent fun x hx => h x (List.mem_append_left _ hx)
  simp only [findCue] at hpre ⊢
  simp [hpre, hc]

theorem updateCue_absent {cs : List CueRecord} (h : ∀ x ∈ cs, x.key ≠ k) (f : CueRecord → CueRecord) :
    updateCue k f cs = cs :=
  (List.map_congr_left (g := id) fun x hx => if_neg (h x hx)).trans (List.map_id cs)

theorem updateCue_split (hc : c.key = k) (h : ∀ x ∈ pre ++ post, x.key ≠ k) (f : CueRecord → CueRecord) :
    updateCue k f (pre ++ c :: post) = pre ++ f c :: post := by
  have hpre := updateCue_absent (fun x hx => h x (List.mem_append_left _ hx)) f
  have hpost := updateCue_absent (fun x hx => h x (List.mem_append_right _ hx)) f
  simp only [updateCue] at hpre hpost ⊢
  rw [List.map_append, List.map_cons, hpre, hpost, if_pos hc]

theorem removeCue_split (hc : c.key = k) (h : ∀ x ∈ pre ++ post, x.key ≠ k) :
    removeCue k (pre ++ c :: post) = pre ++ post := by
  have hsame : (pre ++ post).filter (fun x => decide (x.key ≠ k)) = pre ++ post :=
    List.filter_eq_self.2 fun x hx => decide_eq_true (h x hx)
  rw [List.filter_append] at hsame
  rw [removeCue, List.filter_append, List.filter_cons_of_neg (by simpa using hc), hsame]

end Cues

section Layers

variable {k : CueKey} {pre post : List Layer} {l : Layer}

theorem findLayer_absent {ls : List Layer} (h : ∀ x ∈ ls, x.key ≠ k) : findLayer k ls = none := by
  simpa [findLayer] using h

theorem findLayer_split (hl : l.key = k) (h : ∀ x ∈ pre ++ post, x.key ≠ k) :
    findLayer k (pre ++ l :: post) = some l := by
  have hpre : findLayer k pre = none := findLayer_absent fun x hx => h x (List.mem_append_left _ hx)
  simp only [findLayer] at hpre ⊢
  simp [hpre, hl]

theorem updateLayer_absent {ls : List Layer} (h : ∀ x ∈ ls, x.key ≠ k) (f : Layer → Layer) : updateLayer k f ls = ls :=
  (List.map_congr_left (g := id) fun x hx => if_neg (h x hx)).trans (List.map_id ls)

theorem updateLayer_split (hl : l.key = k) (h : ∀ x ∈ pre ++ post, x.key ≠ k) (f : Layer → Layer) :
    updateLayer k f (pre ++ l :: post) = pre ++ f l :: post := by
  have hpre := updateLayer_absent (fun x hx => h x (List.mem_append_left _ hx)) f
  have hpost := updateLayer_absent (fun x hx => h x (List.mem_append_right _ hx)) f
  simp only [updateLayer] at hpre hpost ⊢
  rw [List.map_append, List.map_cons, hpre, hpost, if_pos hl]

theorem removeLayer_split (hl : l.key = k) (h : ∀ x ∈ pre ++ post, x.key ≠ k) :
    removeLayer k (pre ++ l :: post) = pre ++ post := by
  have hsame : (pre ++ post).filter (fun x => decide (x.key ≠ k)) = pre ++ post :=
    List.filter_eq_self.2 fun x hx => decide_eq_true (h x hx)
  rw [List.filter_append] at hsame
  rw [removeLayer, List.filter_append, List.filter_cons_of_neg (by simpa using hl), hsame]

/-- A layer that is replaced leaves what it became in its place. -/
theorem replaceLayer_split (hl : l.key = k) (h : ∀ x ∈ pre ++ post, x.key ≠ k) (r : Option Layer) :
    replaceLayer k r (pre ++ l :: post) = pre ++ r.toList ++ post := by
  cases r with
  | none => simpa [replaceLayer] using removeLayer_split hl h
  | some m => simpa [replaceLayer] using updateLayer_split hl h fun _ => m

end Layers

/-! ## The deadlines of records -/

section Deadlines

variable {s : State} {c : CueRecord} {d : Clock}

theorem fallbackExpiry_of_due (hf : findCue c.key s.cues = some c) (hr : s.running = true) (hs : c.state = .awaitHandoff)
    (hd : c.fallback = some d) (hc : reached s.showClock d = true) : fallbackExpiry c.key s = s.enterDelaying c := by
  simp [fallbackExpiry, hf, hr, hs, hd, due_some hc]

theorem delayExpiry_of_due (hf : findCue c.key s.cues = some c) (hr : s.running = true) (hs : c.state = .delaying)
    (hd : c.delay = some d) (hc : reached s.showClock d = true) : delayExpiry c.key s = s.startCue c := by
  simp [delayExpiry, hf, hr, hs, hd, due_some hc]

end Deadlines

theorem CueRecord.delayed_at_once {c : CueRecord} (h : c.startDelay = 0) (now : Clock) :
    c.delayed now = { c with state := .delaying, fallback := none, delay := none } := by
  simp only [CueRecord.delayed, if_pos h]

theorem CueRecord.delayed_waits {c : CueRecord} (h : c.startDelay ≠ 0) (now : Clock) :
    c.delayed now = { c with
      state := .delaying
      fallback := none
      delay := some (now + BitVec.ofNat 32 (10 * c.startDelay.toNat)) } := by
  simp only [CueRecord.delayed, if_neg h]
  rfl

/-- A cue starts out of the record of its key: the record leaves, and the layer goes to the stack (R101). -/
theorem State.startCue_split {s : State} {c x : CueRecord} {pre post : List CueRecord} (hs : s.cues = pre ++ x :: post)
    (hx : x.key = c.key) (h : ∀ y ∈ pre ++ post, y.key ≠ c.key) :
    s.startCue c = ({ s with
      cues := pre ++ post
      stack := { s.stack with nextStart := s.stack.nextStart + 1 } }).insertLayer
        (c.layer (s.config.route c.route).reverse s.stack.nextStart) := by
  simp only [State.startCue, hs, removeCue_split hx h]

/-- What the record of its key holds does not matter to a cue that starts. -/
theorem State.startCue_replaced {s : State} {c x y : CueRecord} {pre post : List CueRecord}
    (hs : s.cues = pre ++ x :: post) (hx : x.key = c.key) (hy : y.key = c.key) (h : ∀ z ∈ pre ++ post, z.key ≠ c.key) :
    s.startCue c = { s with cues := pre ++ y :: post }.startCue c := by
  rw [State.startCue_split hs hx h, State.startCue_split (s := { s with cues := pre ++ y :: post }) rfl hy h]

/-- A record that enters DELAYING with a start delay waits in its place (R100). -/
theorem State.enterDelaying_waits {s : State} {c x : CueRecord} {pre post : List CueRecord}
    (hs : s.cues = pre ++ x :: post) (hx : x.key = c.key) (h : ∀ y ∈ pre ++ post, y.key ≠ c.key) (hd : c.startDelay ≠ 0) :
    s.enterDelaying c = { s with cues := pre ++ x.delayed s.showClock :: post } := by
  refine (if_neg hd).trans ?_
  rw [hs, updateCue_split hx h]

/-- Settles O44: a reached deadline, and the two cases of a record that enters DELAYING. -/
theorem cueDeadlinesExpire : Obligations.CueDeadlinesExpire := by
  intro s c pre post hs hkey
  have hfind : findCue c.key s.cues = some c := hs ▸ findCue_split rfl hkey
  refine ⟨fun d hr hst hf hd => congrArg Host.Outcome.next (fallbackExpiry_of_due hfind hr hst hf hd),
    fun d hr hst hf hd => congrArg Host.Outcome.next (delayExpiry_of_due hfind hr hst hf hd), fun h => ?waits,
    fun h => ?atOnce⟩
  case waits =>
    rw [State.enterDelaying_waits hs rfl hkey h, CueRecord.delayed_waits h]
  case atOnce =>
    refine (if_pos h).trans ?_
    rw [CueRecord.delayed_at_once h]
    exact State.startCue_replaced (c := { c with state := .delaying, fallback := none, delay := none }) hs rfl rfl hkey

/-! ## Layers -/

theorem Layer.advancing_iff (l : Layer) :
    l.advancing = true ↔ l.state = .running ∨ (l.state = .fading ∧ l.phase < l.shape.period.toNat) := by
  unfold Layer.advancing
  split <;> simp_all

theorem showTick_of_running {s : State} (hr : s.running = true) :
    showTick s = { s.setLayers (s.stack.layers.map Layer.tick) with showClock := later s.showClock 1 } := if_pos hr

/-- What an advance makes of a layer, as the list of what is left (R125, R126). -/
theorem Layer.advance_toList {l : Layer} (ha : l.state = .running ∨ (l.state = .fading ∧ l.phase < l.shape.period.toNat)) :
    l.advance.toList =
      if l.phase + 1 ≠ l.shape.period.toNat then [{ l with subCount := 0, phase := l.phase + 1 }]
      else if l.shape.loop = true then [{ l with subCount := 0, phase := 0 }]
      else if l.shape.endAction = .drop then []
      else if l.state = .running then [{ l with subCount := 0, phase := l.phase + 1, state := .held }]
      else [{ l with subCount := 0, phase := l.phase + 1 }] := by
  by_cases hp : l.phase + 1 = l.shape.period.toNat
  case neg => simp [Layer.advance, hp]
  by_cases hl : l.shape.loop = true
  case pos => simp [Layer.advance, Layer.endRun, hp, hl]
  cases he : l.shape.endAction
  case drop => simp [Layer.advance, Layer.endRun, hp, hl, he]
  rcases ha with ha | ⟨ha, -⟩ <;> simp [Layer.advance, Layer.endRun, hp, hl, he, ha]

theorem layerPhaseAdvance_of_due {s : State} {k : CueKey} {l : Layer} (hf : findLayer k s.stack.layers = some l)
    (hr : s.running = true) (ha : l.advancing = true) (hu : l.shape.unit ≤ l.subCount) :
    layerPhaseAdvance k s = ((s.setLayers (replaceLayer k l.advance s.stack.layers)).checkDue k).drainCheck := by
  simp [layerPhaseAdvance, hf, hr, ha, hu]

/-- Settles O46: a tick counts in every advancing layer, and an advance leaves what the run's end makes of the layer. -/
theorem ticksAndPhases : Obligations.TicksAndPhases := by
  refine ⟨fun s hr => ?tick, fun s hr => congrArg Host.Outcome.next (if_neg (by simp [hr])), ?advance⟩
  case tick =>
    intro ticked
    have hticked : Layer.tick = ticked := by
      funext l
      refine if_congr ?_ rfl rfl
      rw [Bool.and_eq_true, Layer.advancing_iff, decide_eq_true_eq]
      rfl
    exact congrArg Host.Outcome.next ((showTick_of_running hr).trans (by rw [hticked]; rfl))
  case advance =>
    intro s pre post l hr hs hkey ha hu on became
    have hbecame : l.advance.toList = became := Layer.advance_toList ha
    have hfind : findLayer l.key s.stack.layers = some l := hs ▸ findLayer_split rfl hkey
    refine congrArg Host.Outcome.next ((layerPhaseAdvance_of_due hfind hr (l.advancing_iff.2 ha) hu).trans ?_)
    rw [hs, replaceLayer_split rfl hkey, hbecame]
    rfl

/-! ## Fades -/

theorem fadeStep_of_reached {s : State} {k : CueKey} {l : Layer} {f : Fade} (hfind : findLayer k s.stack.layers = some l)
    (hr : s.running = true) (hs : l.state = .fading) (hf : l.fade = some f) (hd : reached s.showClock f.deadline = true) :
    fadeStep k s = (s.setLayers (replaceLayer k (l.fadeOnce f) s.stack.layers)).drainCheck := by
  simp [fadeStep, hfind, hr, hs, hf, hd]

/-- The opacity of a step is within a byte (R129). -/
theorem Layer.fadeOnce_opacity (f : Fade) :
    (byteOf (f.start.toNat - f.start.toNat * (f.taken + 1) / f.steps)).toNat =
      f.start.toNat - f.start.toNat * (f.taken + 1) / f.steps := by
  have hstart := f.start.isLt
  exact Nat.mod_eq_of_lt ((Nat.sub_le _ _).trans_lt hstart)

theorem Layer.fadeOnce_last {f : Fade} (h : f.taken + 1 = f.steps) (l : Layer) : l.fadeOnce f = none :=
  if_neg (by omega)

theorem Layer.fadeOnce_next {f : Fade} (h : f.taken + 1 < f.steps) (l : Layer) :
    l.fadeOnce f = some { l with
      opacity := byteOf (f.start.toNat - f.start.toNat * (f.taken + 1) / f.steps)
      fade := some { f with taken := f.taken + 1, deadline := later f.deadline 10 } } := if_pos h

/-- Settles O47: the last step removes the layer, any other lowers its opacity. -/
theorem fadesStep : Obligations.FadesStep := by
  intro s pre post l f hr hs hkey hst hf hd
  have hfind : findLayer l.key s.stack.layers = some l := hs ▸ findLayer_split rfl hkey
  have hstep := fadeStep_of_reached hfind hr hst hf hd
  rw [hs, replaceLayer_split rfl hkey] at hstep
  refine ⟨fun h => congrArg Host.Outcome.next (hstep.trans ?last), fun h =>
    ⟨_, Layer.fadeOnce_opacity f, congrArg Host.Outcome.next (hstep.trans ?next)⟩⟩
  case last =>
    rw [Layer.fadeOnce_last h, Option.toList_none, List.append_nil]
    rfl
  case next =>
    rw [Layer.fadeOnce_next h, Option.toList_some, List.append_assoc, List.singleton_append]
    rfl

end Sys2Proof.Machine
end

section
/-! SUPPORT. O45: how a started layer takes its place in the stack, and the check of its due point. -/

namespace Sys2Proof.Machine

/-! ## A place in the stack -/

/-- A layer takes its place between the layers it sits above and those that sit above it (R124). -/
theorem placeLayer_split {l : Layer} {lower upper : List Layer} (hlow : ∀ x ∈ lower, x.above l = false)
    (hup : ∀ x ∈ upper, x.above l = true) : placeLayer l (lower ++ upper) = lower ++ l :: upper := by
  induction lower with
  | nil =>
    cases upper with
    | nil => rfl
    | cons x xs => exact if_pos (hup x List.mem_cons_self)
  | cons x xs ih =>
    have hx : x.above l = false := hlow x List.mem_cons_self
    have hrest := ih fun y hy => hlow y (List.mem_cons_of_mem _ hy)
    simp only [List.cons_append, placeLayer, hx, Bool.false_eq_true, if_false, hrest]

theorem Layer.above_iff (a b : Layer) :
    a.above b = true ↔ b.shape.priority.toNat < a.shape.priority.toNat ∨
      (a.shape.priority = b.shape.priority ∧ b.startOrder < a.startOrder) := by
  simp [Layer.above]

/-- A layer started before another sits above it by its priority alone. -/
theorem Layer.above_newcomer {x l : Layer} (h : x.startOrder < l.startOrder) :
    x.above l = true ↔ l.shape.priority.toNat < x.shape.priority.toNat := by
  rw [Layer.above_iff]
  constructor
  · rintro (h0 | ⟨-, h0⟩)
    · exact h0
    · omega
  · exact .inl

/-! ## Insertion -/

/-- A stack with room takes the newcomer at its place (R135). -/
theorem State.insertLayer_room {s : State} (h : s.stack.layers.length < 6) (l : Layer) : s.insertLayer l = s.placeNew l := by
  unfold State.insertLayer
  split
  next candidate rest hs =>
    rw [hs, List.length_cons] at h
    exact if_pos (by omega)
  next => rfl

theorem State.insertLayer_full {s : State} {bottom : Layer} {rest : List Layer} (hs : s.stack.layers = bottom :: rest)
    (h : rest.length = 5) (l : Layer) : s.insertLayer l = s.insertFull l bottom := by
  simp [State.insertLayer, hs, h]

theorem State.placeNew_split {s : State} {l : Layer} {lower upper : List Layer} (hs : s.stack.layers = lower ++ upper)
    (hlow : ∀ x ∈ lower, x.above l = false) (hup : ∀ x ∈ upper, x.above l = true) :
    s.placeNew l = ({ s with stack := { s.stack with layers := lower ++ l :: upper } }).checkDue l.key := by
  rw [State.placeNew, hs, placeLayer_split hlow hup]
  rfl

/-- The handoff of a loser is requested if it is not spent and its route sends handoffs (R136). -/
theorem State.losersHandoff_eq (s : State) (l : Layer) :
    s.losersHandoff l = if l.spent = false ∧ (s.config.route l.route).sendsHandoff = true then
      s.request ⟨.handoff, some ⟨l.key, l.route⟩⟩ else s := by
  cases hl : l.spent
  case false => simp [State.losersHandoff, State.requestHandoff, Request.handoff, hl]
  case true => simp [State.losersHandoff, hl]

/-- With the bottom layer of a full stack gone the newcomer finds room (R136). -/
theorem State.insertFull_evicts {s : State} {l bottom : Layer} {rest : List Layer}
    (hs : s.stack.layers = bottom :: rest) (hl : rest.length = 5) (hn : (s.stack.layers.map Layer.key).Nodup)
    (hp : bottom.shape.priority.toNat < l.shape.priority.toNat) :
    s.insertFull l bottom = ((({ s with stack := { s.stack with layers := rest } }).raise .layerEvicted).losersHandoff
      bottom).insertLayer l := by
  have hkey : ∀ x ∈ [] ++ rest, x.key ≠ bottom.key := by
    rw [hs, List.map_cons, List.nodup_cons] at hn
    exact fun x hx hk => hn.1 (List.mem_map.2 ⟨x, hx, hk⟩)
  have hrest : removeLayer bottom.key s.stack.layers = rest := hs ▸ removeLayer_split (pre := []) rfl hkey
  rw [State.insertFull, if_pos hp, hrest, State.insertLayer_room (by simp [hl])]
  rfl

theorem State.insertFull_refuses {s : State} {l bottom : Layer}
    (hp : l.shape.priority.toNat ≤ bottom.shape.priority.toNat) :
    s.insertFull l bottom = (s.raise .layerRefused).losersHandoff l := if_neg (Nat.not_lt.2 hp)

/-! ## The due point -/

theorem Layer.handoffDue_iff (l : Layer) :
    l.handoffDue = true ↔ l.state = .running ∧ l.spent = false ∧
      l.phase = l.shape.period.toNat * l.shape.handoffPoint.toNat / 256 := by
  simp only [Layer.handoffDue, Bool.and_eq_true, decide_eq_true_eq, Bool.not_eq_true', and_assoc]
  rfl

theorem State.checkDue_absent {s : State} {k : CueKey} (h : ∀ x ∈ s.stack.layers, x.key ≠ k) : s.checkDue k = s := by
  simp only [State.checkDue, findLayer_absent h]

section Due

variable {s : State} {k : CueKey} {pre post : List Layer} {l : Layer}

theorem State.checkDue_not_due (hs : s.stack.layers = pre ++ l :: post) (hl : l.key = k)
    (h : ∀ x ∈ pre ++ post, x.key ≠ k) (hd : ¬l.handoffDue = true) : s.checkDue k = s := by
  simp only [State.checkDue, hs, findLayer_split hl h, if_neg hd]

/-- A handoff that falls due is spent, and requested if the route sends handoffs (R133). -/
theorem State.checkDue_due (hs : s.stack.layers = pre ++ l :: post) (hl : l.key = k)
    (h : ∀ x ∈ pre ++ post, x.key ≠ k) (hd : l.handoffDue = true) :
    s.checkDue k =
      ({ s with stack := { s.stack with layers := pre ++ { l with spent := true } :: post } }).requestHandoff l := by
  subst hl
  simp only [State.checkDue, hs, findLayer_split rfl h, if_pos hd, State.giveHandoff, State.setLayers,
    updateLayer_split rfl h]

end Due

/-- Settles O45: a start, an insertion into a stack with room and into a full one, and a handoff that falls due. -/
theorem cuesStartAsLayers : Obligations.CuesStartAsLayers := by
  refine ⟨fun s c pre post hs h => State.startCue_split hs rfl h, fun s l hord hkey hn => ⟨?room, ?full⟩,
    fun s k => ⟨State.checkDue_absent, ?due⟩⟩
  case room =>
    intro lower upper hlen hs hlow hup
    rw [State.insertLayer_room hlen]
    refine State.placeNew_split hs (fun x hx => ?_) (fun x hx => ?_)
    all_goals have habove := Layer.above_newcomer (hord x (by simp [hs, hx]))
    · exact Bool.eq_false_iff.2 fun h0 => absurd (habove.1 h0) (Nat.not_lt.2 (hlow x hx))
    · exact habove.2 (hup x hx)
  case full =>
    intro bottom rest hs hlen request
    have hrequest (x : Layer) (u : State) : u.losersHandoff x = request x u := u.losersHandoff_eq x
    refine ⟨fun hp => ?_, fun hp => ?_⟩
    · rw [State.insertLayer_full hs hlen, State.insertFull_evicts hs hlen hn hp, hrequest]
    · rw [State.insertLayer_full hs hlen, State.insertFull_refuses hp, hrequest]
  case due =>
    intro pre post l hs hl h due t
    subst hl
    have hdue : l.handoffDue = true ↔ due := l.handoffDue_iff
    refine ⟨fun hd => State.checkDue_not_due hs rfl h (mt hdue.1 hd), fun hd hr => ?_, fun hd hr => ?_⟩
    · exact (State.checkDue_due hs rfl h (hdue.2 hd)).trans (if_neg (by simp [hr]))
    · exact (State.checkDue_due hs rfl h (hdue.2 hd)).trans (if_pos hr)

end Sys2Proof.Machine
end

section
/-! SUPPORT. O40, O41, O42: the arming of a record, the arrivals at it, and the settling of CALL and HANDOFF. -/

namespace Sys2Proof.Machine

/-! ## The join test -/

theorem joinMet_iff (r : RouteEntry) (arrived : List ZoneNo) :
    joinMet r arrived = true ↔
      (r.join = .first ∧ arrived ≠ []) ∨ (r.join = .both ∧ ∀ p ∈ r.predecessors, p ∈ arrived) := by
  cases hj : r.join <;> simp [joinMet, hj]

theorem addArrived_eq (z : ZoneNo) (arrived : List ZoneNo) :
    addArrived z arrived = if z ∈ arrived then arrived else arrived ++ [z] := by
  simp [addArrived]

/-- The join test of a record just armed: what it needs of its predecessors is that they are ABSENT (R107). -/
theorem joinMet_absent (s : State) (r : RouteEntry) :
    joinMet r (r.predecessors.filter s.isAbsent) = true ↔
      (r.join = .first ∧ ∃ z ∈ r.predecessors, s.peer z = none) ∨
        (r.join = .both ∧ ∀ z ∈ r.predecessors, s.peer z = none) := by
  have habsent (z : ZoneNo) : s.isAbsent z = true ↔ s.peer z = none := Option.isNone_iff_eq_none
  have hfirst : r.predecessors.filter s.isAbsent ≠ [] ↔ ∃ z ∈ r.predecessors, s.peer z = none := by
    simp only [ne_eq, List.filter_eq_nil_iff, habsent, not_forall, not_not, exists_prop]
  have hboth : (∀ p ∈ r.predecessors, p ∈ r.predecessors.filter s.isAbsent) ↔ ∀ z ∈ r.predecessors, s.peer z = none := by
    refine forall₂_congr fun z hz => ?_
    rw [List.mem_filter, habsent, and_iff_right hz]
  rw [joinMet_iff, hfirst, hboth]

/-! ## A record in its place -/

section Place

variable {s : State} {c x : CueRecord} {pre post : List CueRecord}

/-- An arrival at a record is added once, and the join test applied (R99). -/
theorem State.arrive_split (hs : s.cues = pre ++ x :: post) (hx : x.key = c.key) (h : ∀ y ∈ pre ++ post, y.key ≠ c.key)
    (z : ZoneNo) :
    s.arrive c z =
      if joinMet (s.config.route c.route) (addArrived z c.arrived) then
        { s with cues := pre ++ { c with arrived := addArrived z c.arrived } :: post }.enterDelaying
          { c with arrived := addArrived z c.arrived }
      else { s with cues := pre ++ { c with arrived := addArrived z c.arrived } :: post } := by
  simp only [State.arrive, hs, updateCue_split hx h]

/-- A record is armed in its place (R107). -/
theorem State.arm_split (hs : s.cues = pre ++ x :: post) (hx : x.key = c.key) (h : ∀ y ∈ pre ++ post, y.key ≠ c.key) :
    s.arm c =
      if (s.config.route c.route).predecessors.isEmpty || joinMet (s.config.route c.route) (s.armed c).arrived then
        { s with cues := pre ++ s.armed c :: post }.enterDelaying (s.armed c)
      else { s with cues := pre ++ s.armed c :: post } := by
  simp only [State.arm, hs, updateCue_split hx h]

end Place

theorem State.armed_eq (s : State) (c : CueRecord) :
    s.armed c = { c with
      state := .awaitHandoff
      arrived := (s.config.route c.route).predecessors.filter s.isAbsent
      fallback := if (s.config.route c.route).predecessors = [] ∨ (s.config.route c.route).fallback = 0 then none
        else some (s.showClock + BitVec.ofNat 32 (10 * (s.config.route c.route).fallback.toNat))
      delay := none } := by
  simp only [State.armed, Bool.or_eq_true, List.isEmpty_iff, decide_eq_true_eq]
  rfl

/-! ## HANDOFF -/

theorem handoffHandled_of_slot {s : State} {sender origin : ZoneNo} {tag : Byte} {route : BitVec 3} {at_ : Moment}
    (hr : s.running = true) (hs : s.intake.slot = some ⟨⟨sender, .handoff origin tag route⟩, at_⟩) :
    handoffHandled s = s.complete fun u => u.settleHandoff sender ⟨origin, tag⟩ route := by
  simp [handoffHandled, State.handled, hs, hr]

theorem State.settleHandoff_held {s : State} {key : CueKey} (h : ∃ l ∈ s.stack.layers, l.key = key) (sender : ZoneNo)
    (route : BitVec 3) : s.settleHandoff sender key route = s := by
  obtain ⟨l, hl, hk⟩ := h
  have hsome : (findLayer key s.stack.layers).isSome = true := List.find?_isSome.2 ⟨l, hl, decide_eq_true hk⟩
  exact if_pos hsome

theorem State.settleHandoff_unknown {s : State} {key : CueKey} (h : ∀ c ∈ s.cues, c.key ≠ key) (sender : ZoneNo)
    (route : BitVec 3) : s.settleHandoff sender key route = s := by
  simp [State.settleHandoff, findCue_absent h]

theorem State.settleHandoff_found {s : State} {key : CueKey} {c : CueRecord} (hl : ∀ l ∈ s.stack.layers, l.key ≠ key)
    (hc : findCue key s.cues = some c) (sender : ZoneNo) (route : BitVec 3) :
    s.settleHandoff sender key route =
      if c.route = route ∧ c.state = .awaitHandoff then s.arrive c sender else s := by
  simp [State.settleHandoff, findLayer_absent hl, hc]

/-! ## CALL -/

theorem callHandled_of_slot {s : State} {origin : ZoneNo} {tag : Byte} {route : BitVec 3} {sh : Shape} {delay : Byte}
    {at_ : Moment} (hr : s.running = true) (hs : s.intake.slot = some ⟨⟨origin, .call tag route sh delay⟩, at_⟩) :
    callHandled s = s.complete fun u => u.settleCall ⟨origin, tag⟩ route sh delay := by
  simp [callHandled, State.handled, hs, hr]

section Call

variable {s : State} {key : CueKey} (route : BitVec 3) (sh : Shape) (delay : Byte)

theorem State.settleCall_draining (h : s.isDraining = true) : s.settleCall key route sh delay = s := if_pos h

theorem State.settleCall_unlayered (h : s.isDraining = false) (hl : ∀ l ∈ s.stack.layers, l.key ≠ key) :
    s.settleCall key route sh delay = s.callCue key route sh delay := by
  simp [State.settleCall, h, findLayer_absent hl]

theorem State.settleCall_fading (h : s.isDraining = false) {l : Layer} (hl : findLayer key s.stack.layers = some l)
    (hf : l.state = .fading) :
    s.settleCall key route sh delay = (s.setLayers (removeLayer key s.stack.layers)).callCue key route sh delay := by
  simp [State.settleCall, h, hl, hf]

theorem State.settleCall_restyles (h : s.isDraining = false) {l : Layer} (hl : findLayer key s.stack.layers = some l)
    (hf : l.state ≠ .fading) : s.settleCall key route sh delay = s.restyle l sh := by
  simp [State.settleCall, h, hl, hf]

theorem State.callCue_found {c : CueRecord} (hc : findCue key s.cues = some c) :
    s.callCue key route sh delay = s.recall c route sh delay := by
  simp only [State.callCue, hc]

theorem State.callCue_new (hc : ∀ c ∈ s.cues, c.key ≠ key) :
    s.callCue key route sh delay = s.admitCall (newCue key route sh delay) := by
  simp only [State.callCue, findCue_absent hc]

end Call

section Admit

variable {s : State} (c : CueRecord)

theorem State.admitCall_room (h : s.cues.length < 8) : s.admitCall c = s.armNew c := if_pos h

theorem State.admitCall_replaces (h : s.cues.length = 8) (hp : s.config.policy = .replaceOldest) :
    s.admitCall c = ({ s with cues := s.cues.tail }.raise .cueDisplaced).armNew c := by
  simp [State.admitCall, h, hp]

theorem State.admitCall_refuses (h : s.cues.length = 8) (hp : s.config.policy = .refuseNew) :
    s.admitCall c = s.raise .cueRefused := by
  simp [State.admitCall, h, hp]

end Admit

/-- Settles O41: a new record's place in the list, and its arming. -/
theorem callOfANewKey : Obligations.CallOfANewKey := by
  constructor
  case left =>
    intro s key route sh delay hd hl hc c
    have hsettle : s.settleCall key route sh delay = s.admitCall c :=
      (State.settleCall_unlayered route sh delay hd hl).trans (State.callCue_new route sh delay hc)
    refine ⟨fun hlen => hsettle.trans (State.admitCall_room c hlen), fun oldest rest hs hlen => ⟨fun hp => ?_, fun hp => ?_⟩⟩
    · rw [hsettle, State.admitCall_replaces c hlen hp, hs]
      rfl
    · exact hsettle.trans (State.admitCall_refuses c hlen hp)
  case right =>
    intro s c held pre post hs hk h r armed t met
    have harmed : s.armed c = armed := s.armed_eq c
    have harm := State.arm_split hs hk h
    have hmet : joinMet r (s.armed c).arrived = true ↔ met := by
      rw [s.armed_eq c]
      exact joinMet_absent s r
    rw [harmed] at harm hmet
    refine ⟨fun hp => harm.trans (if_pos ?_), fun hp hm => harm.trans (if_pos ?_), fun hp hm => harm.trans (if_neg ?_)⟩
    · rw [Bool.or_eq_true, List.isEmpty_iff]
      exact .inl hp
    · rw [Bool.or_eq_true]
      exact .inr (hmet.2 hm)
    · rw [Bool.or_eq_true, List.isEmpty_iff]
      exact not_or.2 ⟨hp, mt hmet.1 hm⟩

end Sys2Proof.Machine

namespace Sys2Proof

open Machine

/-- Settles O42: who ignores a HANDOFF, and its arrival at a record. -/
theorem handoffHandled : Obligations.HandoffHandled := by
  refine ⟨fun s sender origin tag route at_ hr hs => congrArg Host.Outcome.next (handoffHandled_of_slot hr hs),
    fun s sender key route => ⟨fun h => State.settleHandoff_held h sender route,
      fun h => State.settleHandoff_unknown h sender route, ?found⟩, ?arrives⟩
  case found =>
    intro pre post c hl hs hk h
    have hfound := State.settleHandoff_found hl (hs ▸ findCue_split hk h) sender route
    refine ⟨fun hno => hfound.trans (if_neg ?_), fun hr hst => hfound.trans (if_pos ⟨hr, hst⟩)⟩
    rintro ⟨hr, hst⟩
    rcases hno with hno | hno
    · exact hno hr
    · rw [hst] at hno
      cases hno
  case arrives =>
    intro s c z pre post hs h a r met t
    have harrive := State.arrive_split hs rfl h z
    rw [addArrived_eq] at harrive
    have hmet : joinMet r a.arrived = true ↔ met := joinMet_iff r a.arrived
    exact ⟨fun hm => harrive.trans (if_pos (hmet.2 hm)), fun hm => harrive.trans (if_neg (mt hmet.1 hm))⟩

end Sys2Proof

namespace Sys2Proof.Machine

/-! ## A CALL of a held key -/

/-- A restyled layer keeps its key and start order, so that its place follows from the new priority (R104, R124). -/
theorem State.restyle_split {s : State} {l : Layer} {pre post lower upper : List Layer} (sh : Shape)
    (hs : s.stack.layers = pre ++ l :: post) (h : ∀ x ∈ pre ++ post, x.key ≠ l.key) (hsplit : pre ++ post = lower ++ upper)
    (hlow : ∀ x ∈ lower, x.above (l.restyle sh) = false) (hup : ∀ x ∈ upper, x.above (l.restyle sh) = true) :
    s.restyle l sh =
      ({ s with stack := { s.stack with layers := lower ++ l.restyle sh :: upper } }).checkDue l.key := by
  rw [State.restyle, hs, removeLayer_split rfl h, hsplit, placeLayer_split hlow hup]
  rfl

theorem State.recall_same {s : State} {c : CueRecord} {pre post : List CueRecord} {route : BitVec 3} (sh : Shape)
    (delay : Byte) (hs : s.cues = pre ++ c :: post) (h : ∀ x ∈ pre ++ post, x.key ≠ c.key) (hr : c.route = route) :
    s.recall c route sh delay = { s with cues := pre ++ { c with shape := sh, startDelay := delay } :: post } := by
  refine (if_pos hr).trans ?_
  rw [hs, updateCue_split rfl h]

theorem State.recall_other {s : State} {c : CueRecord} {route : BitVec 3} (sh : Shape) (delay : Byte)
    (hr : c.route ≠ route) : s.recall c route sh delay = s.arm (newCue c.key route sh delay) := if_neg hr

/-- Settles O40: in DRAINING nothing; else by the layer or the record that holds the key. -/
theorem callOfAHeldKey : Obligations.CallOfAHeldKey := by
  refine ⟨fun s origin tag route sh delay at_ hr hs => congrArg Host.Outcome.next (callHandled_of_slot hr hs),
    fun s key route sh delay => ⟨State.settleCall_draining route sh delay, ?layer, ?record⟩⟩
  case layer =>
    intro pre post l hd hs hk h
    subst hk
    have hfind : findLayer l.key s.stack.layers = some l := hs ▸ findLayer_split rfl h
    refine ⟨fun hf => ?fading, fun hf lower upper => ?restyled⟩
    case fading =>
      have hrest : ∀ x ∈ (s.setLayers (pre ++ post)).stack.layers, x.key ≠ l.key := h
      rw [State.settleCall_fading route sh delay hd hfind hf, hs, removeLayer_split rfl h]
      exact (State.settleCall_unlayered route sh delay (s := s.setLayers (pre ++ post)) hd hrest).symm
    case restyled =>
      intro styled above hsplit hlow hup
      have habove (x : Layer) : x.above (l.restyle sh) = true ↔ above x := x.above_iff _
      rw [State.settleCall_restyles route sh delay hd hfind hf]
      exact State.restyle_split sh hs h hsplit (fun x hx => Bool.eq_false_iff.2 (mt (habove x).1 (hlow x hx)))
        fun x hx => (habove x).2 (hup x hx)
  case record =>
    intro pre post c hd hl hs hk h
    subst hk
    have hcall : s.settleCall c.key route sh delay = s.recall c route sh delay :=
      (State.settleCall_unlayered route sh delay hd hl).trans
        (State.callCue_found route sh delay (hs ▸ findCue_split rfl h))
    exact ⟨fun hr => hcall.trans (State.recall_same sh delay hs h hr), fun hr => hcall.trans (State.recall_other sh delay hr)⟩

end Sys2Proof.Machine
end

section
/-! SUPPORT. O33, O35, O43: CANCEL, and the roster. -/

namespace Sys2Proof.Machine

/-! ## CANCEL -/

theorem cancelHandled_of_slot {s : State} {sender origin : ZoneNo} {tag time : Byte} {mode : CancelMode} {at_ : Moment}
    (hr : s.running = true) (hs : s.intake.slot = some ⟨⟨sender, .cancel origin tag mode time⟩, at_⟩) :
    cancelHandled s = s.complete fun u => (u.cancel origin tag mode time).drainCheck := by
  simp [cancelHandled, State.handled, hs, hr]

/-- A fade takes a layer; any other CANCEL removes it (R116). -/
theorem Layer.cancel_eq (l : Layer) (mode : CancelMode) (time : Byte) (now : Clock) :
    l.cancel mode time.toNat now = if mode = .fadeOut ∧ time ≠ 0 then
      some { l with state := .fading, spent := true, fade := some ⟨l.opacity, time.toNat, 0, now + 10⟩ } else none := by
  cases mode
  case stop => simp [Layer.cancel]
  case fadeOut =>
    by_cases ht : time = 0
    · simp [Layer.cancel, ht]
    · simp only [Layer.cancel, Byte.toNat_eq_zero, ht, if_false, ne_eq, not_false_eq_true, and_self, if_true]
      rfl

/-- The keys a CANCEL matches are those of the list and the stack that its origin and tag select (R114). -/
theorem State.mem_matchedKeys {s : State} {origin : ZoneNo} {tag : Byte} {k : CueKey} :
    k ∈ s.matchedKeys origin tag ↔
      cancelMatches origin tag k = true ∧ (k ∈ s.cues.map CueRecord.key ∨ k ∈ s.stack.layers.map Layer.key) := by
  rw [State.matchedKeys, List.mem_filter, List.mem_append, and_comm]

/-! ## Absence signals -/

/-- A record waits for a zone: for its HANDOFF, on a route that lists it (R110). -/
def State.waitsFor (s : State) (z : ZoneNo) (c : CueRecord) : Prop :=
  c.state = .awaitHandoff ∧ z ∈ (s.config.route c.route).predecessors

theorem State.signalCue_ignored {s : State} {z : ZoneNo} {k : CueKey} (h : ∀ c ∈ s.cues, c.key = k → ¬s.waitsFor z c) :
    s.signalCue z k = s := by
  unfold State.signalCue
  split
  next c hc =>
    obtain ⟨hmem, hk⟩ := findCue_some hc
    exact if_neg (h c hmem hk)
  next => rfl

theorem State.signalCue_waiting {s : State} {z : ZoneNo} {k : CueKey} {c : CueRecord} (hf : findCue k s.cues = some c)
    (hw : s.waitsFor z c) : s.signalCue z k = s.arrive c z := by
  simp only [State.signalCue, hf]
  exact if_pos hw

/-- In a list whose keys differ each record is the one found by its key. -/
theorem findCue_of_mem {cs : List CueRecord} (hn : (cs.map CueRecord.key).Nodup) {c : CueRecord} (hc : c ∈ cs) :
    findCue c.key cs = some c := by
  cases hf : findCue c.key cs with
  | none => exact absurd rfl (findCue_none hf c hc)
  | some x =>
    obtain ⟨hx, hk⟩ := findCue_some hf
    rw [eq_of_key hn hx hc hk]

/-- Signals at records that do not wait for the zone leave the state as it is. -/
theorem State.signals_ignored {s : State} {z : ZoneNo} {ks : List CueKey}
    (h : ∀ k ∈ ks, s.signalCue z k = s) : ks.foldl (State.signalCue z) s = s := by
  induction ks with
  | nil => rfl
  | cons k ks ih =>
    rw [List.foldl_cons, h k List.mem_cons_self]
    exact ih fun x hx => h x (List.mem_cons_of_mem _ hx)

theorem State.signalCue_key_ignored {s : State} {z : ZoneNo} (hn : (s.cues.map CueRecord.key).Nodup) {c : CueRecord}
    (hc : c ∈ s.cues) (hw : ¬s.waitsFor z c) : s.signalCue z c.key = s :=
  State.signalCue_ignored fun _ hx hk => eq_of_key hn hx hc hk ▸ hw

/-- The first record that waits for the zone hears the signal, and those after it in their turn (R110). -/
theorem State.signalAbsence_split {s : State} {z : ZoneNo} {pre post : List CueRecord} {c : CueRecord}
    (hn : (s.cues.map CueRecord.key).Nodup) (hs : s.cues = pre ++ c :: post) (hpre : ∀ x ∈ pre, ¬s.waitsFor z x)
    (hw : s.waitsFor z c) :
    s.signalAbsence z = (post.map CueRecord.key).foldl (State.signalCue z) (s.arrive c z) := by
  have hfind : findCue c.key s.cues = some c := findCue_of_mem hn (by simp [hs])
  have hignored : (pre.map CueRecord.key).foldl (State.signalCue z) s = s :=
    State.signals_ignored fun k hk => by
      obtain ⟨x, hx, rfl⟩ := List.mem_map.1 hk
      exact State.signalCue_key_ignored hn (by simp [hs, hx]) (hpre x hx)
  have hkeys : s.cues.map CueRecord.key = pre.map CueRecord.key ++ c.key :: post.map CueRecord.key := by simp [hs]
  rw [State.signalAbsence, hkeys, List.foldl_append, hignored, List.foldl_cons, State.signalCue_waiting hfind hw]

theorem State.signalAbsence_ignored {s : State} {z : ZoneNo} (hn : (s.cues.map CueRecord.key).Nodup)
    (h : ∀ c ∈ s.cues, ¬s.waitsFor z c) : s.signalAbsence z = s :=
  State.signals_ignored fun k hk => by
    obtain ⟨x, hx, rfl⟩ := List.mem_map.1 hk
    exact State.signalCue_key_ignored hn hx (h x hx)

theorem absenceExpiry_of_reached {s : State} {i : Fin 31} {p : Peer} (hr : s.running = true)
    (hp : s.roster.entries[i] = some p) (hc : reached s.showClock p.absence = true) :
    absenceExpiry i s = ((s.setPeer i none).signalAbsence (BitVec.ofFin (i.castLE (by decide)))).formTarget := by
  unfold absenceExpiry
  rw [hp]
  exact if_pos (by rw [hr, hc]; rfl)

/-- Settles O35: an absence, the records that hear of it, and the presence timer. -/
theorem rosterTimersExpire : Obligations.RosterTimersExpire := by
  refine ⟨fun s i p z hr hp hc hz => congrArg Host.Outcome.next ?absence, ?signals,
    fun s d hr hd hc => congrArg Host.Outcome.next (presenceTimerExpiry_of_reached hr hd hc)⟩
  case absence =>
    have hzone : z = BitVec.ofFin (i.castLE (by decide)) := BitVec.eq_of_toNat_eq hz
    rw [absenceExpiry_of_reached hr hp hc, hzone]
    rfl
  case signals =>
    intro s z waits hn
    refine ⟨State.signalAbsence_ignored hn, fun pre post c hs hpre hw => State.signalAbsence_split hn hs hpre hw,
      fun k h => State.signalCue_ignored h, fun k c hc hk hw => ?_⟩
    subst hk
    exact State.signalCue_waiting (findCue_of_mem hn hc) hw

/-! ## A PRESENCE at the roster -/

theorem presenceDelivered_of_inbox {s : State} {i : Fin 31} {kind : PeerKind} {cap : Byte} {rest : List RosterFrame}
    (hr : s.running = true) (hi : s.intake.inbox = .presence i kind cap :: rest) :
    presenceDelivered s = (s.withInbox rest).deliverPresence i kind cap := by
  simp [presenceDelivered, hi, hr]

theorem State.presenceQueued_iff (s : State) : s.presenceQueued = true ↔ ∃ e ∈ s.out.entries, e.kind = .presence := by
  simp [State.presenceQueued]

theorem State.presenceRecent_iff (s : State) :
    s.presenceRecent = true ↔
      ∃ c, s.roster.completionStamp = some c ∧ (s.showClock - c).toNat * 4 < 50 * s.config.presenceCount := by
  simp only [State.presenceRecent, Option.any_eq_true, decide_eq_true_eq]
  rfl

/-- A newcomer is answered unless a PRESENCE is queued or was completed just now (R76). -/
theorem State.answerNewcomer_eq (s : State) :
    s.answerNewcomer = if s.presenceQueued = true ∨ s.presenceRecent = true then s
      else s.request (.report .presence) := by
  simp only [State.answerNewcomer, Bool.or_eq_true]

/-- A node that does not take requests leaves its queue as it is (R56). -/
theorem State.request_not_taken {s : State} (h : s.takesRequests = false) (r : Request) : s.request r = s :=
  if_pos (by simp [h])

/-- The newcomer rule asks nothing of a node that is not SPEAKING. -/
theorem State.answerNewcomer_quiet {s : State} (h : s.bus.standing ≠ .speaking) : s.answerNewcomer = s := by
  have hrefused : s.request (.report .presence) = s := State.request_not_taken (by simp [State.takesRequests, h]) _
  rw [State.answerNewcomer_eq, hrefused, ite_self]

theorem State.endsQuiet_iff (s : State) (kind : PeerKind) :
    s.endsQuiet kind = true ↔ s.bus.standing = .listenOnly ∧ s.bus.expiryMark = true ∧ kind = .lighting := by
  simp [State.endsQuiet, and_assoc]

end Sys2Proof.Machine

namespace Sys2Proof

open Machine

/-- Settles O43: what the CANCEL makes of each layer and of each entry is what the statement's functions say. -/
theorem cancelHandled : Obligations.CancelHandled := by
  intro s sender origin tag mode time at_ hr hs hit layer entry
  have hlayer (u : State) : (fun l : Layer => if cancelMatches origin tag l.key then
      l.cancel mode time.toNat u.showClock else some l) = layer u := by
    funext l
    simp only [layer, Layer.cancel_eq]
    cases hl : hit l.key <;> simp [show cancelMatches origin tag l.key = hit l.key from rfl, hl]
  have hentries (u : State) : withdrawKeys (u.matchedKeys origin tag) u.out.entries = u.out.entries.filterMap (entry u) := by
    refine List.filterMap_congr fun e _ => ?_
    simp only [entry]
    cases e.wave with
    | none => rfl
    | some w =>
      refine if_congr ?_ rfl rfl
      rw [List.contains_iff_mem, State.mem_matchedKeys]
      rfl
  refine congrArg Host.Outcome.next ((cancelHandled_of_slot hr hs).trans ?_)
  refine State.complete_congr (congrArg State.drainCheck ?_)
  simp only [State.cancel, hlayer, hentries]
  rfl

/-- Settles O33: the newcomer rule speaks in a node that is SPEAKING, the end of the quiet period in one that is not. -/
theorem presenceDelivered : Obligations.PresenceDelivered := by
  intro s i kind cap rest hr hi peer u answered ends
  let v : State := if s.roster.entries[i].isNone then u.answerNewcomer else u
  have hdelivered : exec .presenceDelivered s = .next (if v.endsQuiet kind then v.toSpeaking else v) :=
    congrArg Host.Outcome.next (presenceDelivered_of_inbox hr hi)
  have hvbus : v.bus = s.bus := by
    simp only [v]
    split <;> simp [u]
  have hends : v.endsQuiet kind = true ↔ ends := by rw [State.endsQuiet_iff, hvbus]
  have hqueued : u.presenceQueued = true ↔ ∃ e ∈ s.out.entries, e.kind = .presence := u.presenceQueued_iff
  have hrecent : u.presenceRecent = true ↔ _ := s.presenceRecent_iff
  have hquiet (hn : s.bus.standing ≠ .speaking) : v = u := by
    simp only [v, State.answerNewcomer_quiet (s := u) hn, ite_self]
  have hanswer : v = if answered then u else u.request ⟨.presence, none⟩ := by
    have ha : answered ↔ ¬s.roster.entries[i].isNone = true ∨ u.presenceQueued = true ∨ u.presenceRecent = true := by
      rw [hqueued, hrecent, Option.isNone_iff_eq_none]
    simp only [v]
    split
    next hn => exact u.answerNewcomer_eq.trans (if_congr (ha.trans (or_iff_right (not_not.2 hn))).symm rfl rfl)
    next hn => exact (if_pos (ha.2 (.inl hn))).symm
  refine ⟨fun ha he => ?_, fun ha he => ?_, fun he => ?_⟩
  · rw [hdelivered, if_neg (mt hends.1 he), hanswer, if_pos ha]
  · rw [hdelivered, if_neg (mt hends.1 he), hanswer, if_neg ha]
  · rw [hdelivered, if_pos (hends.2 he), hquiet (by simp [he.1])]
    rfl

end Sys2Proof
end

section
/-! SUPPORT. O30, O31: requests of the outgoing queue that fold, join, or find it full. -/

namespace Sys2Proof.Machine

/-! ## Folding and joining -/

theorem SendEntry.answers_iff (e : SendEntry) (r : Request) :
    e.answers r = true ↔ e.kind = r.kind ∧ e.wave.map Wave.key = r.wave.map Wave.key := by
  simp [SendEntry.answers]

theorem SendEntry.answers_eq_false {e : SendEntry} {r : Request}
    (h : ¬(e.kind = r.kind ∧ e.wave.map Wave.key = r.wave.map Wave.key)) : e.answers r = false :=
  Bool.eq_false_iff.2 (mt (e.answers_iff r).1 h)

theorem SendEntry.fold_other {e : SendEntry} {r : Request} (h : e.answers r = false) : e.fold r = e := by
  simp [SendEntry.fold, h]

/-- An entry that is folded into is marked for renewal in flight, a HANDOFF never (R57). -/
theorem SendEntry.fold_answering {e : SendEntry} {r : Request} (h : e.answers r = true) :
    e.fold r = if e.inFlight = true ∧ r.kind ≠ .handoff then { e with renew := true } else e := by
  simp [SendEntry.fold, h]

theorem SendKind.budget_eq (k : SendKind) : k.budget = if k = .cap ∨ k = .handoff then 3 else 1 := by
  cases k <;> rfl

/-- An entry joins behind the headers up to its own (R55). -/
theorem insertEntry_split {e : SendEntry} {pre post : List SendEntry} (hpre : ∀ x ∈ pre, x.header.toNat ≤ e.header.toNat)
    (hpost : ∀ x ∈ post, e.header.toNat < x.header.toNat) : insertEntry e (pre ++ post) = pre ++ e :: post := by
  induction pre with
  | nil =>
    cases post with
    | nil => rfl
    | cons x xs => exact if_pos (hpost x List.mem_cons_self)
  | cons x xs ih =>
    have hrest := ih fun y hy => hpre y (List.mem_cons_of_mem _ hy)
    exact (if_neg (Nat.not_lt.2 (hpre x List.mem_cons_self))).trans (congrArg (x :: ·) hrest)

section Requests

variable {s : State} {r : Request}

theorem State.request_folds (ht : s.takesRequests = true) (ha : ∃ e ∈ s.out.entries, e.answers r = true) :
    s.request r = { s with out := { s.out with entries := s.out.entries.map (SendEntry.fold r) } } := by
  have hany : s.out.entries.any (·.answers r) = true := List.any_eq_true.2 ha
  simp [State.request, ht, hany]

theorem State.request_joins (ht : s.takesRequests = true) (hn : ∀ e ∈ s.out.entries, e.answers r = false)
    (hl : s.out.entries.length < 4) : s.request r = { s with out := s.out.join s.config.zone r } := by
  have hany : s.out.entries.any (·.answers r) = false := by simpa using hn
  simp [State.request, ht, hany, hl]

/-- A request that finds the queue full takes the place of its victim (R59, R60). -/
theorem State.request_evicts (ht : s.takesRequests = true) (hn : ∀ e ∈ s.out.entries, e.answers r = false)
    (hl : 4 ≤ s.out.entries.length) {v : SendEntry} (hv : victim r.kind s.out.entries = some v) :
    s.request r =
      { ({ s with out := { s.out with entries := removeOrder v.order s.out.entries } }.raise .sendDropped) with
        out := ({ s with out := { s.out with entries := removeOrder v.order s.out.entries } }.raise .sendDropped).out.join
          s.config.zone r } := by
  have hany : s.out.entries.any (·.answers r) = false := by simpa using hn
  have hroom : ¬s.out.entries.length < 4 := by omega
  simp only [State.request, ht, hany, hroom, hv, Bool.not_true, Bool.false_eq_true, if_false]
  rfl

end Requests

theorem State.takesRequests_eq_false {s : State} (h : s.running = false ∨ s.bus.standing ≠ .speaking) :
    s.takesRequests = false := by
  rcases h with h | h <;> simp [State.takesRequests, h]

/-- Settles O30: a request is folded, joins, or is not taken, each by its condition. -/
theorem requestsFoldOrJoin : Obligations.RequestsFoldOrJoin := by
  refine fun s r => ⟨fun h => State.request_not_taken (State.takesRequests_eq_false h) r, ?folds, ?joins⟩
  case folds =>
    intro e pre post hr hs he hk hw hn
    have hans : e.answers r = true := (e.answers_iff r).2 ⟨hk, hw⟩
    have hother {es : List SendEntry} (hes : es ⊆ pre ++ post) : es.map (SendEntry.fold r) = es :=
      (List.map_congr_left (g := id) fun x hx => SendEntry.fold_other (SendEntry.answers_eq_false (hn x (hes hx)))).trans
        (List.map_id es)
    rw [State.request_folds (s.takesRequests_iff.2 ⟨hr, hs⟩) ⟨e, by simp [he], hans⟩, he, List.map_append, List.map_cons,
      hother (List.subset_append_left pre post), hother (List.subset_append_right pre post), SendEntry.fold_answering hans]
  case joins =>
    intro pre post hr hs he hlen hn hpre hpost
    rw [State.request_joins (s.takesRequests_iff.2 ⟨hr, hs⟩) (fun x hx => SendEntry.answers_eq_false (hn x (he ▸ hx))) hlen,
      OutQueue.join, he, insertEntry_split (by exact hpre) (by exact hpost), SendEntry.fresh, SendKind.budget_eq]
    rfl

/-! ## The victim -/

/-- The latest HANDOFF is one of the greatest entry order (R60). -/
theorem latestHandoff_eq_argmax (es : List SendEntry) :
    latestHandoff es = (es.filter fun e => decide (e.kind = .handoff) && !e.inFlight).argmax SendEntry.order := by
  unfold latestHandoff List.argmax
  congr 1
  funext best e
  cases best <;> rfl

/-- An entry of a kind that is not in flight (R59). -/
def SendEntry.Free (es : List SendEntry) (k : SendKind) (e : SendEntry) : Prop := e ∈ es ∧ e.kind = k ∧ e.inFlight = false

/-- The HANDOFFs that `latestHandoff` chooses from are the free ones (R60). -/
theorem SendEntry.mem_freeHandoffs {es : List SendEntry} {x : SendEntry} :
    x ∈ es.filter (fun e => decide (e.kind = .handoff) && !e.inFlight) ↔ x.Free es .handoff := by
  simp [SendEntry.Free]

section Sound

variable {s : State} (h : QueueSound s) {a b e : SendEntry}

include h

theorem QueueSound.apart_of_ne (ha : a ∈ s.out.entries) (hb : b ∈ s.out.entries) (hne : a ≠ b) : a.Apart b := by
  have hsymm : Std.Symm SendEntry.Apart := ⟨fun _ _ => SendEntry.Apart.symm⟩
  exact h.apart.forall ha hb hne

theorem QueueSound.eq_of_order (ha : a ∈ s.out.entries) (hb : b ∈ s.out.entries) (ho : a.order = b.order) : a = b := by
  by_contra hne
  exact (h.apart_of_ne ha hb hne).1 ho

theorem QueueSound.wave_none (ha : a ∈ s.out.entries) (hk : a.kind ≠ .handoff) : a.wave = none :=
  Option.not_isSome_iff_eq_none.1 (mt (h.entry a ha).wave.1 hk)

/-- Of a kind other than HANDOFF the queue holds one entry at most (R54, R56). -/
theorem QueueSound.eq_of_kind (ha : a ∈ s.out.entries) (hb : b ∈ s.out.entries) (hk : a.kind = b.kind)
    (hn : b.kind ≠ .handoff) : a = b := by
  by_contra hne
  refine (h.apart_of_ne ha hb hne).2 ⟨hk, ?_⟩
  rw [h.wave_none ha (hk ▸ hn), h.wave_none hb hn]

theorem QueueSound.freeEntry_eq (he : e.Free s.out.entries k) (hk : k ≠ .handoff) : freeEntry k s.out.entries = some e := by
  obtain ⟨hmem, hkind, hfree⟩ := he
  have hsome : (freeEntry k s.out.entries).isSome = true := List.find?_isSome.2 ⟨e, hmem, by simp [hkind, hfree]⟩
  obtain ⟨v, hv⟩ := Option.isSome_iff_exists.1 hsome
  have hvk : v.kind = k := by
    have hp := List.find?_some hv
    simp only [Bool.and_eq_true, decide_eq_true_eq] at hp
    exact hp.1
  rw [hv, h.eq_of_kind (freeEntry_mem hv).1 hmem (hvk.trans hkind.symm) (hkind ▸ hk)]

/-- A free HANDOFF of the greatest entry order is the one evicted (R60). -/
theorem QueueSound.latestHandoff_eq (he : e.Free s.out.entries .handoff)
    (hmax : ∀ x : SendEntry, x.Free s.out.entries .handoff → x.order ≤ e.order) :
    latestHandoff s.out.entries = some e := by
  rw [latestHandoff_eq_argmax]
  cases hm : (s.out.entries.filter fun e => decide (e.kind = .handoff) && !e.inFlight).argmax SendEntry.order with
  | none =>
    have hmem := SendEntry.mem_freeHandoffs.2 he
    rw [List.argmax_eq_none.1 hm] at hmem
    cases hmem
  | some m =>
    have hmfree := SendEntry.mem_freeHandoffs.1 (List.argmax_mem hm)
    have hle : e.order ≤ m.order := List.le_of_mem_argmax (SendEntry.mem_freeHandoffs.2 he) hm
    rw [h.eq_of_order hmfree.1 he.1 (Nat.le_antisymm (hmax m hmfree) hle)]

end Sound

theorem freeEntry_eq_none {es : List SendEntry} {k : SendKind} (h : ∀ x : SendEntry, ¬x.Free es k) : freeEntry k es = none := by
  refine List.find?_eq_none.2 fun x hx hp => h x ⟨hx, ?_⟩
  simpa using hp

theorem exists_latestHandoff {es : List SendEntry} {x : SendEntry} (hx : x.Free es .handoff) :
    ∃ e : SendEntry, e.Free es .handoff ∧ ∀ y : SendEntry, y.Free es .handoff → y.order ≤ e.order := by
  obtain ⟨e, he⟩ : ∃ e, (es.filter fun e => decide (e.kind = .handoff) && !e.inFlight).argmax SendEntry.order = some e :=
    Option.ne_none_iff_exists'.1 (mt List.argmax_eq_none.1 (List.ne_nil_of_mem (SendEntry.mem_freeHandoffs.2 hx)))
  exact ⟨e, SendEntry.mem_freeHandoffs.1 (List.argmax_mem he), fun y hy => List.le_of_mem_argmax (SendEntry.mem_freeHandoffs.2 hy) he⟩

theorem removeOrder_split {e : SendEntry} {pre post : List SendEntry} (h : (pre ++ e :: post).Pairwise SendEntry.Apart) :
    removeOrder e.order (pre ++ e :: post) = pre ++ post := by
  rw [List.pairwise_middle SendEntry.Apart.symm, List.pairwise_cons] at h
  have hsame : (pre ++ post).filter (fun x => decide (x.order ≠ e.order)) = pre ++ post :=
    List.filter_eq_self.2 fun x hx => decide_eq_true (h.1 x hx).1.symm
  rw [List.filter_append] at hsame
  rw [removeOrder, List.filter_append, List.filter_cons_of_neg (by simp), hsame]

/-! ## A full queue makes room -/

/-- The entry that a request of kind `k` evicts: a STATUS, else a PRESENCE, else, for a CAP, the latest HANDOFF; none
of them in flight (R59, R60). -/
def SendEntry.Evicted (es : List SendEntry) (k : SendKind) (e : SendEntry) : Prop :=
  e.Free es .status ∨ ((∀ x : SendEntry, ¬x.Free es .status) ∧ e.Free es .presence) ∨
    (k = .cap ∧ (∀ x : SendEntry, ¬x.Free es .status) ∧ (∀ x : SendEntry, ¬x.Free es .presence) ∧ e.Free es .handoff ∧
      ∀ x : SendEntry, x.Free es .handoff → x.order ≤ e.order)

theorem QueueSound.victim_evicted {s : State} (h : QueueSound s) {k : SendKind} (hk : k = .handoff ∨ k = .cap)
    {e : SendEntry} (he : e.Evicted s.out.entries k) : victim k s.out.entries = some e := by
  rcases he with he | ⟨hns, he⟩ | ⟨rfl, hns, hnp, he, hmax⟩
  · have hfree := h.freeEntry_eq he (by decide)
    rcases hk with rfl | rfl <;> simp [victim, hfree]
  · have hnone := freeEntry_eq_none hns
    have hfree := h.freeEntry_eq he (by decide)
    rcases hk with rfl | rfl <;> simp [victim, hnone, hfree]
  · simp [victim, freeEntry_eq_none hns, freeEntry_eq_none hnp, h.latestHandoff_eq he hmax]

/-- A HANDOFF that finds neither a free STATUS nor a free PRESENCE has no victim (R59). -/
theorem victim_handoff_none {es : List SendEntry} (h : ∀ e : SendEntry, ¬e.Evicted es .handoff) :
    victim .handoff es = none := by
  have hns : ∀ x : SendEntry, ¬x.Free es .status := fun x hx => h x (.inl hx)
  have hnp : ∀ x : SendEntry, ¬x.Free es .presence := fun x hx => h x (.inr (.inl ⟨hns, hx⟩))
  simp [victim, freeEntry_eq_none hns, freeEntry_eq_none hnp]

/-- Of four entries one is not in flight (R55). -/
theorem QueueSound.exists_resting {s : State} (h : QueueSound s) (hl : s.out.entries.length = 4) :
    ∃ x ∈ s.out.entries, x.inFlight = false := by
  by_contra hno
  have hall : s.out.entries.filter SendEntry.inFlight = s.out.entries :=
    List.filter_eq_self.2 fun x hx => by simpa using fun h0 => hno ⟨x, hx, h0⟩
  have hone := h.attempt
  rw [hall, hl] at hone
  have := s.bus.inAttempt.toNat_le
  omega

/-- A CAP finds a victim in a full queue that holds no CAP (R60). -/
theorem QueueSound.exists_evicted {s : State} (h : QueueSound s) (hl : s.out.entries.length = 4)
    (hcap : ∀ x ∈ s.out.entries, x.kind ≠ .cap) : ∃ e : SendEntry, e.Evicted s.out.entries .cap := by
  by_cases hs : ∃ x : SendEntry, x.Free s.out.entries .status
  · exact hs.imp fun x hx => .inl hx
  by_cases hp : ∃ x : SendEntry, x.Free s.out.entries .presence
  · exact hp.imp fun x hx => .inr (.inl ⟨not_exists.1 hs, hx⟩)
  obtain ⟨x, hx, hrest⟩ := h.exists_resting hl
  have hfree : x.Free s.out.entries .handoff := by
    cases hk : x.kind with
    | handoff => exact ⟨hx, hk, hrest⟩
    | cap => exact absurd hk (hcap x hx)
    | status => exact absurd ⟨x, hx, hk, hrest⟩ hs
    | presence => exact absurd ⟨x, hx, hk, hrest⟩ hp
  obtain ⟨e, he, hmax⟩ := exists_latestHandoff hfree
  exact ⟨e, .inr (.inr ⟨rfl, not_exists.1 hs, not_exists.1 hp, he, hmax⟩)⟩

/-- Settles O31: the victim is the statement's evicted entry, and without it the request joins. -/
theorem fullQueueMakesRoom : Obligations.FullQueueMakesRoom := by
  intro s r h hr hs hl hk hw hn free evicted
  have ht : s.takesRequests = true := s.takesRequests_iff.2 ⟨hr, hs⟩
  have hans : ∀ x ∈ s.out.entries, x.answers r = false := fun x hx => SendEntry.answers_eq_false (hn x hx)
  refine ⟨fun e pre post he hsplit => ?evicts, fun hh hno => ?refused, fun hc => ?cap⟩
  case evicts =>
    have hremove : removeOrder e.order s.out.entries = pre ++ post := by
      have happart := h.apart
      rw [hsplit] at happart ⊢
      exact removeOrder_split happart
    have hroom : (pre ++ post).length < 4 := by
      have hlen := hl
      rw [hsplit, List.length_append, List.length_cons] at hlen
      rw [List.length_append]
      omega
    have hjoin := State.request_joins (r := r) (s := { s with out := { s.out with entries := pre ++ post } }.raise .sendDropped)
      ht (fun x hx => ?_) (by simpa using hroom)
    · rw [State.request_evicts ht hans hl.ge (h.victim_evicted hk he), hremove, hjoin]
      rfl
    · obtain ⟨y, hy, rfl⟩ := List.mem_map.1 hx
      have hmem : y ∈ s.out.entries := by
        rw [hsplit]
        exact ((List.sublist_cons_self e post).append_left pre).mem hy
      exact hans y hmem
  case refused =>
    have hno' : ∀ e : SendEntry, ¬e.Evicted s.out.entries r.kind := hno
    rw [hh] at hno'
    exact State.request_refused ht hans hl.ge (hh ▸ victim_handoff_none hno')
  case cap =>
    have hnone : r.wave = none := Option.not_isSome_iff_eq_none.1 (mt hw.1 (by rw [hc]; decide))
    have hkind : ∀ x ∈ s.out.entries, x.kind ≠ .cap := fun x hx hxk =>
      hn x hx ⟨hxk.trans hc.symm, by rw [h.wave_none hx (by rw [hxk]; decide), hnone]⟩
    have hex : ∃ e : SendEntry, e.Evicted s.out.entries r.kind := hc ▸ h.exists_evicted hl hkind
    exact hex

end Sys2Proof.Machine
end

section
/-! SUPPORT. O15, O19: edges on the line and the start of an attempt. -/

namespace Sys2Proof.Machine

/-! ## Edges -/

theorem wakingEdge_of_asleep {s : State} (h : s.nodeState = .asleep) : wakingEdge s = { s with nodeState := .waking } :=
  if_pos h

theorem wakingEdge_of_awake {s : State} (h : s.nodeState ≠ .asleep) : wakingEdge s = s := if_neg h

theorem State.not_asleep_of_running {s : State} (h : s.running = true) : s.nodeState ≠ .asleep := fun h0 => by
  simp [State.running, h0] at h

section Edges

variable {s : State} {g : Gap}

/-- In a node that does not run an edge can only wake it (R22, R186). -/
theorem startBit_stopped (h : s.running = false) : startBit g s = wakingEdge s := if_neg (by simp [h])

theorem lineNoise_stopped (h : s.running = false) : lineNoise g s = wakingEdge s := if_neg (by simp [h])

theorem startBit_silent (hr : s.running = true) (hs : s.bus.standing = .silent) (hg : gapMayBeIdle g = true) :
    startBit g s = s.silentEdge := (if_pos (by simp [hr, hg])).trans (if_pos hs)

theorem lineNoise_silent (hr : s.running = true) (hs : s.bus.standing = .silent) (hg : gapMayBeNoise g = true) :
    lineNoise g s = s.silentEdge := (if_pos (by simp [hr, hg])).trans (if_pos hs)

/-- An edge on the idle line begins a frame (R4). -/
theorem startBit_idle (hr : s.running = true) (hs : s.bus.standing ≠ .silent) (hg : gapMayBeIdle g = true)
    (hi : s.bus.idleAt g = true) : startBit g s = s.watch .receiving :=
  (if_pos (by simp [hr, hg])).trans ((if_neg hs).trans (if_pos hi))

theorem startBit_not_idle (hr : s.running = true) (hs : s.bus.standing ≠ .silent) (hi : s.bus.idleAt g ≠ true) :
    startBit g s = s := by
  have hawake := wakingEdge_of_awake (State.not_asleep_of_running hr)
  cases hg : gapMayBeIdle g <;> simp [startBit, hr, hs, hi, hg, hawake]

/-- An edge outside a frame on a line that is not idle restarts the idle count (R4). -/
theorem lineNoise_outside (hr : s.running = true) (hs : s.bus.standing ≠ .silent) (hg : gapMayBeNoise g = true)
    (ho : s.bus.isOutside = true) (hi : s.bus.idleAt g = false) : lineNoise g s = s.watch (.outside .rise 0) :=
  (if_pos (by simp [hr, hg])).trans ((if_neg hs).trans (if_pos (by simp [ho, hi])))

theorem lineNoise_ignored (hr : s.running = true) (hs : s.bus.standing ≠ .silent)
    (hi : s.bus.isOutside = false ∨ s.bus.idleAt g = true) : lineNoise g s = s := by
  have hawake := wakingEdge_of_awake (State.not_asleep_of_running hr)
  have hquiet : (s.bus.isOutside && !s.bus.idleAt g) = false := by rcases hi with hi | hi <;> simp [hi]
  cases hg : gapMayBeNoise g <;> simp only [lineNoise, hr, hs, hg, hquiet, hawake, Bool.and_self, Bool.true_and,
    Bool.false_eq_true, if_false, if_true]

end Edges

theorem BusPort.isOutside_iff (b : BusPort) : b.isOutside = true ↔ ∃ from_ i, b.line = .outside from_ i := by
  unfold BusPort.isOutside
  split <;> simp_all

/-- A line that some idle count finds idle may be idle (R4). -/
theorem gapMayBeIdle_of_idleAt {b : BusPort} {g : Gap} (h : b.idleAt g = true) : gapMayBeIdle g = true := by
  rw [gapMayBeIdle_iff]
  rw [BusPort.idleAt_iff] at h
  split at h
  next => exact (Nat.add_le_add_right (Nat.le_max_right _ _) _).trans h
  next => exact h
  next => exact h.2
  next => exact h.2
  all_goals exact h.elim

/-- An edge outside a frame comes on a line that is idle or may be noisy (R4). -/
theorem gapMayBeNoise_of_not_idleAt {b : BusPort} {g : Gap} (ho : b.isOutside = true) (h : b.idleAt g ≠ true)
    (hw : g.width ≤ g.since) : gapMayBeNoise g = true := by
  obtain ⟨from_, i, hl⟩ := b.isOutside_iff.1 ho
  rw [ne_eq, BusPort.idleAt_iff, hl] at h
  rw [gapMayBeNoise_iff]
  cases from_ with
  | bitEnd => exact ⟨hw, Nat.not_le.1 h⟩
  | rise => exact ⟨hw, (Nat.not_le.1 h).trans_le (Nat.add_le_add_right (Nat.le_max_right _ _) _)⟩

/-- Settles O15: an edge wakes, begins a frame, is noise, or is nothing to the node. -/
theorem edgesOnTheLine : Obligations.EdgesOnTheLine := by
  intro s g idle measured
  have hidle : s.bus.idleAt g = true ↔ idle := s.bus.idleAt_iff g
  refine ⟨fun ha => ?asleep, fun hr ha => ?awake, fun hr hs => ⟨fun hg => ?_, fun hw hg => ?_⟩, fun hr hs => ?running⟩
  case asleep =>
    have hr : s.running = false := by simp [State.running, ha]
    have hwake := wakingEdge_of_asleep ha
    exact ⟨congrArg Host.Outcome.next hwake, congrArg Host.Outcome.next ((startBit_stopped hr).trans hwake),
      congrArg Host.Outcome.next ((lineNoise_stopped hr).trans hwake)⟩
  case awake =>
    have hwake := wakingEdge_of_awake ha
    exact ⟨congrArg Host.Outcome.next hwake, congrArg Host.Outcome.next ((startBit_stopped hr).trans hwake),
      congrArg Host.Outcome.next ((lineNoise_stopped hr).trans hwake)⟩
  · exact congrArg Host.Outcome.next (startBit_silent hr hs ((gapMayBeIdle_iff g).2 hg))
  · exact congrArg Host.Outcome.next (lineNoise_silent hr hs ((gapMayBeNoise_iff g).2 ⟨hw, hg⟩))
  case running =>
    refine ⟨fun hi => ⟨?_, ?_⟩, fun hi => ?_, fun from_ i hl hi hw => ?_, fun hl => ?_⟩ <;> refine congrArg Host.Outcome.next ?_
    · exact startBit_idle hr hs (gapMayBeIdle_of_idleAt (hidle.2 hi)) (hidle.2 hi)
    · exact lineNoise_ignored hr hs (.inr (hidle.2 hi))
    · exact startBit_not_idle hr hs (mt hidle.1 hi)
    · have ho : s.bus.isOutside = true := s.bus.isOutside_iff.2 ⟨from_, i, hl⟩
      exact lineNoise_outside hr hs (gapMayBeNoise_of_not_idleAt ho (mt hidle.1 hi) hw) ho
        (Bool.eq_false_iff.2 (mt hidle.1 hi))
    · have ho : ¬s.bus.isOutside = true := fun h0 => by
        obtain ⟨from_, i, h1⟩ := s.bus.isOutside_iff.1 h0
        exact hl from_ i h1
      exact lineNoise_ignored hr hs (.inl (Bool.eq_false_iff.2 ho))

/-! ## The start of an attempt -/

theorem State.maySend_iff (s : State) (g : Gap) :
    s.maySend g = true ↔ s.running = true ∧ s.bus.standing = .speaking ∧ s.bus.idleAt g = true := by
  simp [State.maySend, and_assoc]

theorem attemptStart_of_maySend {s : State} {g : Gap} {head : SendEntry} {rest : List SendEntry}
    (hq : s.out.entries = head :: rest) (h : s.maySend g = true) :
    attemptStart g s =
      { s with out := { s.out with entries := s.launched head :: rest } }.watch (.sending (s.frameOf head)) := by
  simp only [attemptStart, hq, h, if_true]

theorem attemptStart_not {s : State} {g : Gap} (h : ¬s.maySend g = true ∨ s.out.entries = []) : attemptStart g s = s := by
  unfold attemptStart
  split
  next head rest hq => exact if_neg (h.resolve_right (by simp [hq]))
  next => rfl

/-- Settles O19: the conditions of an attempt are those of `State.maySend`. -/
theorem attemptStarts : Obligations.AttemptStarts := by
  intro s g idle
  have hidle : s.bus.idleAt g = true ↔ idle := s.bus.idleAt_iff g
  have hsend : s.maySend g = true ↔ s.running = true ∧ s.bus.standing = .speaking ∧ idle := by rw [s.maySend_iff g, hidle]
  refine ⟨fun head rest hr hs hi hq => congrArg Host.Outcome.next (attemptStart_of_maySend hq (hsend.2 ⟨hr, hs, hi⟩)),
    fun h => congrArg Host.Outcome.next (attemptStart_not ?_)⟩
  rw [hsend]
  rcases h with h | h | h | h
  · exact .inl fun h0 => by simp [h] at h0
  · exact .inl fun h0 => h h0.2.1
  · exact .inl fun h0 => h h0.2.2
  · exact .inr h

end Sys2Proof.Machine
end

section
/-! SUPPORT. O20 to O23: the outcomes of an attempt, and the line-stuck condition. -/

namespace Sys2Proof.Machine

/-! ## The entry in flight -/

section InFlight

variable {e : SendEntry} {pre post : List SendEntry}

theorem settleInFlight_resting {es : List SendEntry} (h : ∀ x ∈ es, x.inFlight = false)
    (f : SendEntry → Option SendEntry) : settleInFlight f es = es :=
  (List.filterMap_congr fun x hx => by simp [h x hx]).trans List.filterMap_some

/-- The outcome of an attempt changes the entry in flight and no other (R63 to R65). -/
theorem settleInFlight_split (he : e.inFlight = true) (h : ∀ x ∈ pre ++ post, x.inFlight = false)
    (f : SendEntry → Option SendEntry) : settleInFlight f (pre ++ e :: post) = pre ++ (f e).toList ++ post := by
  have hpre := settleInFlight_resting (fun x hx => h x (List.mem_append_left _ hx)) f
  have hpost := settleInFlight_resting (fun x hx => h x (List.mem_append_right _ hx)) f
  simp only [settleInFlight] at hpre hpost ⊢
  rw [List.filterMap_append, List.filterMap_cons, hpre, hpost, if_pos he]
  cases f e <;> simp

theorem State.inFlightEntry_split {s : State} (hq : s.out.entries = pre ++ e :: post) (he : e.inFlight = true)
    (h : ∀ x ∈ pre ++ post, x.inFlight = false) : s.inFlightEntry = some e := by
  have hpre : pre.find? SendEntry.inFlight = none :=
    List.find?_eq_none.2 fun x hx => by simp [h x (List.mem_append_left _ hx)]
  simp [State.inFlightEntry, hq, hpre, he]

end InFlight

theorem BusPort.inAttempt_of_sending {b : BusPort} {f : Frame} (h : b.line = .sending f) : b.inAttempt = true := by
  simp [BusPort.inAttempt, h]

theorem BusPort.frame?_of_sending {b : BusPort} {f : Frame} (h : b.line = .sending f) : b.frame? = some f := by
  simp [BusPort.frame?, h]

/-! ## What an outcome leaves of the entry -/

theorem SendEntry.renewed_eq (e : SendEntry) :
    e.renewed = { e with
      inFlight := false
      renew := false
      clearMarks := ⟨false, false, false⟩
      budget := if e.kind = .cap ∨ e.kind = .handoff then 3 else 1 } := by
  simp only [SendEntry.renewed, SendKind.budget_eq]
  rfl

theorem afterSent_toList (e : SendEntry) :
    (afterSent e).toList = if e.withdrawn = false ∧ e.renew = true then [e.renewed] else [] := by
  cases hw : e.withdrawn <;> cases hr : e.renew <;> simp [afterSent, hw, hr]

theorem afterLost_toList (e : SendEntry) : (afterLost e).toList = if e.withdrawn = true then [] else [e.rest] := by
  cases hw : e.withdrawn <;> simp [afterLost, hw]

theorem afterVoided_toList (e : SendEntry) :
    (afterVoided e).toList =
      if e.withdrawn = true then []
      else if 1 < e.budget then [{ e.rest with budget := e.budget - 1 }]
      else if e.renew = true then [e.renewed]
      else [] := by
  unfold afterVoided
  (repeat' split) <;> rfl

theorem voidDrops_iff (e : SendEntry) :
    voidDrops e = true ↔ e.withdrawn = false ∧ e.budget ≤ 1 ∧ e.renew = false := by
  simp [voidDrops, and_assoc]

theorem voidDrops_eq (e : SendEntry) :
    voidDrops e = decide (e.withdrawn = false ∧ e.budget ≤ 1 ∧ e.renew = false) :=
  Bool.eq_iff_iff.2 ((voidDrops_iff e).trans decide_eq_true_iff.symm)

/-! ## SENT and LOST -/

theorem attemptSent_of_inFlight {s : State} {e : SendEntry} (hr : s.running = true) (ha : s.bus.inAttempt = true)
    (he : s.inFlightEntry = some e) :
    attemptSent s =
      { (s.presenceSent e).settle afterSent with
        bus := { ((s.presenceSent e).settle afterSent).bus with voidRun := 0, line := .outside .bitEnd 0 } } := by
  simp only [attemptSent, hr, ha, he, Bool.and_self, if_true]

theorem State.presenceSent_eq (s : State) (e : SendEntry) :
    s.presenceSent e = { s with
      status := if e.kind = .presence then { s.status with groupNew := s.status.groupNew.without e.clearMarks } else s.status
      roster := if e.kind = .presence then { s.roster with completionStamp := some s.showClock } else s.roster } := by
  unfold State.presenceSent
  split <;> rfl

/-- Settles O20: the status, the roster and the queue after a SENT outcome. -/
theorem attemptSentSettles : Obligations.AttemptSentSettles := by
  intro s f e pre post hr hl hq he hrest
  refine congrArg Host.Outcome.next ?_
  rw [attemptSent_of_inFlight hr (BusPort.inAttempt_of_sending hl) (State.inFlightEntry_split hq he hrest),
    State.presenceSent_eq]
  simp only [State.settle, hq, settleInFlight_split he hrest, afterSent_toList, SendEntry.renewed_eq]
  rfl

theorem contentionLost_of_sending {s : State} {f : Frame} {k : Fin 12} (hr : s.running = true)
    (hl : s.bus.line = .sending f) (hk : f.header.getMsbD k = true) :
    contentionLost k s = (s.settle afterLost).watch .receiving := by
  simp only [contentionLost, BusPort.frame?_of_sending hl, hr, hk, Bool.and_self, if_true]

/-- Settles O22: the queue after a LOST outcome. -/
theorem contentionLostSettles : Obligations.ContentionLostSettles := by
  intro s f k e pre post hr hl hk hq he hrest
  refine congrArg Host.Outcome.next ((contentionLost_of_sending hr hl hk).trans ?_)
  simp only [State.settle, State.watch, hq, settleInFlight_split he hrest, afterLost_toList]
  rfl

/-! ## VOIDED -/

/-- A VOIDED outcome in the queue: what it leaves of the entry, and the notice of a dropped one (R64). -/
theorem State.settleVoided_split {s : State} {e : SendEntry} {pre post : List SendEntry}
    (hq : s.out.entries = pre ++ e :: post) (he : e.inFlight = true) (h : ∀ x ∈ pre ++ post, x.inFlight = false) :
    s.settleVoided = ({ s with out := { s.out with entries := pre ++ (afterVoided e).toList ++ post } }).raiseIf
      (voidDrops e) .sendDropped := by
  rw [State.settleVoided, State.inFlightEntry_split hq he h, Option.any_some, State.settle, hq, settleInFlight_split he h]

theorem State.raiseIf_watch (s : State) (c : Bool) (n : Notice) (l : LineWatch) :
    (s.raiseIf c n).watch l = (s.watch l).raiseIf c n := by
  cases c <;> rfl

theorem State.countVoid_counts {s : State} (h : s.bus.voidRun + 1 < 8) :
    s.countVoid = { s with bus := { s.bus with voidRun := s.bus.voidRun + 1 } } := if_pos h

theorem State.countVoid_last {s : State} (h : s.bus.voidRun + 1 = 8) : s.countVoid = s.enterListenOnly :=
  if_neg (by omega)

/-- A discarded queue raises SEND_DROPPED if it held an entry (R67). -/
theorem State.discardQueue_eq (s : State) :
    s.discardQueue = if s.out.entries = [] then { s with out := { s.out with entries := [] } }
      else { s with out := { s.out with entries := [] } }.raise .sendDropped := by
  cases hq : s.out.entries <;> simp [State.discardQueue, hq]

/-- A queue discarded after a raise: the raise is of the empty queue (R67, R188). -/
theorem State.raise_discardQueue (s : State) (n : Notice) :
    (s.raise n).discardQueue =
      if s.out.entries = [] then { s with out := { s.out with entries := [] } }.raise n
      else ({ s with out := { s.out with entries := [] } }.raise n).raise .sendDropped := by
  have hempty : (s.raise n).out.entries = [] ↔ s.out.entries = [] := List.map_eq_nil_iff
  exact (s.raise n).discardQueue_eq.trans (if_congr hempty rfl rfl)

/-- LISTEN_ONLY with an empty queue and the quiet period begun at `now` (R15, R16). -/
def State.listening (s : State) (now : Clock) : State :=
  { s with
    bus := { s.bus with
      voidRun := 0
      standing := .listenOnly
      quietDeadline := some (now + 200)
      expiryMark := false }
    out := { s.out with entries := [] } }

/-- The move to LISTEN_ONLY discards the queue and begins the quiet period (R15, R16). -/
theorem State.enterListenOnly_eq (s : State) :
    s.enterListenOnly =
      if s.out.entries = [] then (s.listening s.showClock).raise .listenOnlyEntered
      else ((s.listening s.showClock).raise .listenOnlyEntered).raise .sendDropped :=
  State.raise_discardQueue { s with bus := { s.bus with
    voidRun := 0, standing := .listenOnly, quietDeadline := some (s.showClock + 200), expiryMark := false } } _

theorem attemptVoided_of_sending {s : State} {f : Frame} (hr : s.running = true) (hl : s.bus.line = .sending f) :
    attemptVoided s = s.attemptVoided := if_pos (by rw [hr, BusPort.inAttempt_of_sending hl]; rfl)

theorem readbackFault_of_faulty {s : State} {f : Frame} {position : Nat} {bit : LineBit} (hr : s.running = true)
    (hl : s.bus.line = .sending f) (hf : readbackFaulty f position bit = true) :
    readbackFault position bit s = (s.raise .bitFault).attemptVoided.watch .stopped := by
  simp only [readbackFault, BusPort.frame?_of_sending hl, hr, hf, Bool.and_self, if_true]

/-- The three grounds of a readback fault (R7, R8; log entry 19). -/
theorem readbackFaulty_of_bit {f : Frame} {position : Nat} {sent : Bool} (hs : f.bits[position]? = some sent)
    (b : LineBit) :
    readbackFaulty f position b = true ↔
      (0 < position ∧ ¬(3500 ≤ b.spacing ∧ b.spacing ≤ 4500)) ∨ (badPulse b = true ∧ b.width < 2000) ∨
        (¬(1 ≤ position ∧ position ≤ 12 ∧ sent = true ∧ b.sample = false) ∧ (b.sample ≠ sent ∨ badPulse b = true)) := by
  have hedge : (!edgeInWindow b.spacing) = true ↔ ¬(3500 ≤ b.spacing ∧ b.spacing ≤ 4500) := by
    rw [Bool.not_eq_true', ← Bool.not_eq_true, edgeInWindow_iff]
  have hlost : (!lostBit position sent b.sample) = true ↔
      ¬(1 ≤ position ∧ position ≤ 12 ∧ sent = true ∧ b.sample = false) := by
    rw [Bool.not_eq_true', ← Bool.not_eq_true]
    exact not_congr (by simp [lostBit, and_assoc])
  have hsample : (sent != b.sample) = true ↔ b.sample ≠ sent := by rw [bne_iff_ne, ne_comm]
  simp only [readbackFaulty, hs, earlyFault, Bool.or_eq_true, Bool.and_eq_true, decide_eq_true_eq, hedge, hlost, hsample,
    or_assoc]
  rfl

/-- Settles O21: the void run, the budget and the standing after a VOIDED outcome. -/
theorem attemptVoidedSettles : Obligations.AttemptVoidedSettles := by
  refine ⟨fun s f e pre post hr hl hq he hrest => ?voided, fun s f position bit sent hr hl hs => ?readback⟩
  case voided =>
    intro rested kept u₀ u
    have hkept : (afterVoided e).toList = kept := by
      rw [afterVoided_toList, SendEntry.renewed_eq]
      rfl
    have hu : u₀.raiseIf (voidDrops e) .sendDropped = u := by
      rw [voidDrops_eq, State.raiseIf_decide]
    have hvoided : exec .attemptVoided s = .next u.countVoid := by
      refine congrArg Host.Outcome.next ((attemptVoided_of_sending hr hl).trans ?_)
      rw [State.attemptVoided, State.settleVoided_split hq he hrest, hkept, State.raiseIf_watch]
      exact congrArg State.countVoid hu
    have hrun : u.bus.voidRun = s.bus.voidRun := by
      rw [← hu]
      simp [u₀]
    have hempty : u.out.entries = [] ↔ pre ++ kept ++ post = [] := by
      rw [← hu, raiseIf_entries]
      split
      · exact List.map_eq_nil_iff
      · rfl
    have hclock : u.showClock = s.showClock := by
      rw [← hu]
      simp [u₀]
    refine ⟨fun h => ?counts, fun h => ?last⟩
    case counts => rw [hvoided, State.countVoid_counts (hrun ▸ h), hrun]
    case last =>
      intro t
      rw [hvoided, State.countVoid_last (hrun ▸ h), State.enterListenOnly_eq, hclock]
      exact congrArg Host.Outcome.next (if_congr hempty rfl rfl)
  case readback =>
    intro lost badPulse hfault
    have hf : readbackFaulty f position bit = true := by
      rw [readbackFaulty_of_bit hs, badPulse_iff]
      exact hfault
    exact ⟨(s.raise .bitFault).attemptVoided, congrArg Host.Outcome.next (attemptVoided_of_sending hr hl),
      congrArg Host.Outcome.next (readbackFault_of_faulty hr hl hf)⟩

end Sys2Proof.Machine
end

section
/-! SUPPORT. O23: the line-stuck condition, which may come upon an attempt, and the recovery from it. -/

namespace Sys2Proof.Machine

/-! ## Raises in turn -/

theorem GroupFlags.put_comm (f : GroupFlags) (v : Bool) (a b : NoticeGroup) :
    (f.put v a).put v b = (f.put v b).put v a := by
  cases a <;> cases b <;> rfl

theorem GroupFlags.put_put (f : GroupFlags) (v : Bool) (a : NoticeGroup) : (f.put v a).put v a = f.put v a := by
  cases a <;> rfl

theorem Status.raise_comm (st : Status) (a b : Notice) : (st.raise a).raise b = (st.raise b).raise a := by
  simp only [Status.raise, BitVec.or_assoc, BitVec.or_comm a.bit, GroupFlags.put_comm _ true a.group]

theorem Status.raise_raise (st : Status) (a : Notice) : (st.raise a).raise a = st.raise a := by
  simp only [Status.raise, BitVec.or_assoc, BitVec.or_self, GroupFlags.put_put]

/-- Two notices may be raised in either order (R187, R188). -/
theorem State.raise_comm (s : State) (a b : Notice) : (s.raise a).raise b = (s.raise b).raise a := by
  have hunmark (e : SendEntry) : (e.unmark a.group).unmark b.group = (e.unmark b.group).unmark a.group := by
    simp only [SendEntry.unmark, GroupFlags.put_comm _ false a.group]
  have hentries : (s.out.entries.map (SendEntry.unmark a.group)).map (SendEntry.unmark b.group) =
      (s.out.entries.map (SendEntry.unmark b.group)).map (SendEntry.unmark a.group) := by
    simp only [List.map_map]
    exact List.map_congr_left fun e _ => hunmark e
  have hstatus := s.status.raise_comm a b
  simp only [State.raise, hentries, hstatus]

/-- A notice raised twice is raised once. -/
theorem State.raise_raise (s : State) (a : Notice) : (s.raise a).raise a = s.raise a := by
  have hentries : (s.out.entries.map (SendEntry.unmark a.group)).map (SendEntry.unmark a.group) =
      s.out.entries.map (SendEntry.unmark a.group) := by
    simp only [List.map_map]
    refine List.map_congr_left fun e _ => ?_
    simp only [Function.comp_apply, SendEntry.unmark, GroupFlags.put_put]
  have hstatus := s.status.raise_raise a
  simp only [State.raise, hentries, hstatus]

/-! ## The move to SILENT -/

/-- SILENT with an empty queue, LINE_STUCK raised (R17, R67). -/
def State.stuck (s : State) : State :=
  { s with bus := s.bus.silence, out := { s.out with entries := [] } }.raise .lineStuck

theorem State.silence_discardQueue (s : State) :
    ({ s with bus := s.bus.silence }.raise .lineStuck).discardQueue =
      if s.out.entries = [] then s.stuck else s.stuck.raise .sendDropped :=
  State.raise_discardQueue { s with bus := s.bus.silence } .lineStuck

theorem lineStuckCondition_quiet {s : State} {d : Nanos} (hr : s.running = true) (hd : lineStuck d = true)
    (ha : s.bus.inAttempt = false) :
    lineStuckCondition d s = if s.out.entries = [] then s.stuck else s.stuck.raise .sendDropped := by
  rw [← State.silence_discardQueue]
  simp only [lineStuckCondition, hr, hd, ha, Bool.and_self, if_true, Bool.false_eq_true, if_false]

theorem lineStuckCondition_attempt {s : State} {d : Nanos} (hr : s.running = true) (hd : lineStuck d = true)
    (ha : s.bus.inAttempt = true) :
    lineStuckCondition d s =
      if s.settleVoided.out.entries = [] then s.settleVoided.stuck else s.settleVoided.stuck.raise .sendDropped := by
  rw [← State.silence_discardQueue]
  simp only [lineStuckCondition, hr, hd, ha, Bool.and_self, if_true]

/-- An entry that is not dropped goes only if it was withdrawn (R64, R66). -/
theorem afterVoided_nil {e : SendEntry} (h : voidDrops e = false) : (afterVoided e).toList = [] ↔ e.withdrawn = true := by
  have hno := mt (voidDrops_iff e).2 (by simp [h])
  rw [afterVoided_toList]
  (repeat' split) <;> simp_all

/-- The entry that a VOIDED outcome drops, or one that is discarded, raises SEND_DROPPED once (R64, R67). -/
theorem State.settleVoided_stuck {s : State} {e : SendEntry} {pre post : List SendEntry}
    (hq : s.out.entries = pre ++ e :: post) (he : e.inFlight = true) (h : ∀ x ∈ pre ++ post, x.inFlight = false) :
    (if s.settleVoided.out.entries = [] then s.settleVoided.stuck else s.settleVoided.stuck.raise .sendDropped) =
      if pre ++ post ≠ [] ∨ e.withdrawn = false then s.stuck.raise .sendDropped else s.stuck := by
  rw [State.settleVoided_split hq he h]
  cases hv : voidDrops e with
  | true =>
    have hdropped : ({ s with out := { s.out with entries := pre ++ (afterVoided e).toList ++ post } }.raise
        .sendDropped).stuck = s.stuck.raise .sendDropped := 
      State.raise_comm { s with bus := s.bus.silence, out := { s.out with entries := [] } } .sendDropped .lineStuck
    rw [State.raiseIf_true, hdropped, State.raise_raise, ite_self, if_pos (.inr ((voidDrops_iff e).1 hv).1)]
  | false =>
    have hkept : pre ++ (afterVoided e).toList ++ post = [] ↔ ¬(pre ++ post ≠ [] ∨ e.withdrawn = false) := by
      have hleft := afterVoided_nil hv
      simp only [List.append_eq_nil_iff, hleft]
      cases e.withdrawn <;> simp
    exact (if_congr hkept rfl rfl).trans (ite_not _ _ _)

theorem silentRecovery_of_healthy {s : State} {r : Nanos} (hr : s.running = true) (hs : s.bus.standing = .silent)
    (hh : lineHealthy r = true) :
    silentRecovery r s = { s with bus := { s.bus.quiet s.showClock with recessiveCount := r, line := .outside .rise r } } := by
  simp only [silentRecovery, hr, hs, hh, decide_true, Bool.and_self, if_true]

/-- Settles O23: the condition without an attempt and upon one, and the recovery. -/
theorem lineStuckAndRecovery : Obligations.LineStuckAndRecovery := by
  refine ⟨fun s d hr hd hl => ?quiet, fun s d f e pre post hr hd hl hq he hrest => ?attempt, fun s r hr hs hh => ?recovery⟩
  case quiet =>
    have ha : s.bus.inAttempt = false := s.bus.inAttempt_eq_false.2 hl
    exact congrArg Host.Outcome.next (lineStuckCondition_quiet hr ((lineStuck_iff d).2 hd) ha)
  case attempt =>
    refine congrArg Host.Outcome.next ((lineStuckCondition_attempt hr ((lineStuck_iff d).2 hd)
      (BusPort.inAttempt_of_sending hl)).trans ?_)
    exact State.settleVoided_stuck hq he hrest
  case recovery =>
    exact congrArg Host.Outcome.next (silentRecovery_of_healthy hr hs (decide_eq_true hh))

end Sys2Proof.Machine
end

section
/-! SUPPORT. O26, O28, O29: fields of bodies, delivery, and the frames that are taken. -/

namespace Sys2Proof.Machine

/-! ## Fields -/

theorem word16_eq_ofNat (hi lo : Byte) : word16 hi lo = BitVec.ofNat 16 (256 * hi.toNat + lo.toNat) := by
  have hl := lo.isLt
  have hh := hi.isLt
  apply BitVec.eq_of_toNat_eq
  rw [word16, BitVec.toNat_append, ← Nat.shiftLeft_add_eq_or_of_lt hl, Nat.shiftLeft_eq, BitVec.toNat_ofNat]
  omega

/-- The effects of a CALL by their field (R28). -/
theorem Effect.ofField_eq : ∀ f : BitVec 3, Effect.ofField f =
    [some .hold, some .fade, some .sweep, some .breathe, some .chase, none, none, none].getD f.toNat none := by
  decide

theorem bodyOrder_call {body : List Byte} {e : Effect} (h : Effect.ofField (field (bodyByte body 1) 2 3) = some e) :
    bodyOrder .call body =
      some (.call (bodyByte body 0) (field (bodyByte body 1) 5 3) (callShape body e) (bodyByte body 12)) := by
  simp only [bodyOrder, h, Option.map_some]

/-- Settles O29: the fields of the model's bodies are those of the statement; a word is its two bytes. -/
theorem fieldsOfOrders : Obligations.FieldsOfOrders := by
  intro body byte word colour
  have hword (i : Nat) : word16 (byte i) (byte (i + 1)) = word i := word16_eq_ofNat _ _
  refine ⟨rfl, fun e he => ?call, Effect.ofField_eq, rfl, rfl, rfl, rfl, rfl, rfl, rfl, ?clear, rfl, rfl⟩
  case call =>
    refine (bodyOrder_call he).trans ?_
    simp only [callShape, ← hword]
    rfl
  case clear =>
    simp only [bodyOrder, ← hword]
    rfl

/-! ## Delivery -/

theorem zoneIndex_eq_some {z : ZoneNo} {i : Fin 31} : zoneIndex z = some i ↔ i.val = z.toNat := by
  unfold zoneIndex
  split
  next h => simp [Fin.ext_iff, eq_comm]
  next h =>
    simp only [false_iff, reduceCtorEq]
    have := i.isLt
    omega

section Deliver

variable {s : State} {e : IntakeEntry}

theorem State.deliver_idle (hs : s.intake.slot = none) (hf : s.intake.fifo = []) :
    s.deliver e = { s with intake := { s.intake with slot := some ⟨e, ⟨s.showClock, 400⟩⟩ } } := by
  simp [State.deliver, Intake.take, hs, hf, handlingMicros]

theorem State.deliver_busy (hs : s.intake.slot ≠ none) (hf : s.intake.fifo.length < 4) :
    s.deliver e = { s with intake := { s.intake with fifo := s.intake.fifo ++ [e] } } := by
  obtain ⟨h, hh⟩ := Option.ne_none_iff_exists'.1 hs
  simp [State.deliver, Intake.take, hh, hf]

theorem State.deliver_overrun (hf : s.intake.fifo.length = 4) : s.deliver e = s.raise .intakeOverrun :=
  if_neg (by omega)

end Deliver

theorem State.deliverFrame_order {s : State} {k : FrameKind} {body : List Byte} {o : Order} (h : bodyOrder k body = some o)
    (origin : ZoneNo) : s.deliverFrame k origin body = s.deliver ⟨origin, o⟩ := by
  simp only [State.deliverFrame, h]

/-- A roster frame of the own zone goes nowhere (R47). -/
theorem State.deliverFrame_own {s : State} {k : FrameKind} {origin : ZoneNo} (hk : k = .presence ∨ k = .cap)
    (ho : origin = s.config.zone) (body : List Byte) : s.deliverFrame k origin body = s := by
  rcases hk with rfl | rfl <;> simp [State.deliverFrame, bodyOrder, rosterFrame, ho]

/-- A roster frame of another station waits in the inbox (R47; log entry 8). -/
theorem State.deliverFrame_roster {s : State} {origin : ZoneNo} {i : Fin 31} (hi : i.val = origin.toNat)
    (ho : origin ≠ s.config.zone) (body : List Byte) :
    s.deliverFrame .presence origin body =
      s.withInbox (s.intake.inbox ++ [.presence i (presenceKind body) (bodyByte body 1)]) ∧
    s.deliverFrame .cap origin body = s.withInbox (s.intake.inbox ++ [.cap i (bodyByte body 0)]) := by
  have hz := zoneIndex_eq_some.2 hi
  constructor <;> simp [State.deliverFrame, bodyOrder, rosterFrame, ho, hz]

/-- A completed handling takes the head of the FIFO, if there is one (R50). -/
theorem Intake.take_empty_slot (fifo : List IntakeEntry) (inbox : List RosterFrame) (now : Clock) :
    Intake.take ⟨fifo, none, inbox⟩ now = match fifo with
      | [] => ⟨[], none, inbox⟩
      | e :: rest => ⟨rest, some ⟨e, ⟨now, 400⟩⟩, inbox⟩ := by
  cases fifo <;> rfl

/-- Settles O28, frame by frame; a completed handling takes the head of the FIFO. -/
theorem deliveryAndHandling : Obligations.DeliveryAndHandling := by
  refine ⟨fun s k origin body => ⟨fun hk ho => State.deliverFrame_own hk ho body,
    fun i hi ho => State.deliverFrame_roster hi ho body, fun o ho => ?orders⟩, fun s effect => ?completes⟩
  case orders =>
    rw [State.deliverFrame_order ho]
    exact ⟨State.deliver_idle, State.deliver_busy, State.deliver_overrun⟩
  case completes =>
    intro t ht
    have hcomplete : s.complete effect = { t with intake := t.intake.take t.showClock } := rfl
    rw [hcomplete, ht, Intake.take_empty_slot]
    cases hf : s.intake.fifo with
    | nil =>
      have hempty : t.intake = ⟨[], none, s.intake.inbox⟩ := by
        rw [ht]
        simp only [hf]
      exact congrArg (fun i => { t with intake := i }) hempty.symm
    | cons e rest => rfl

/-! ## Frames that are taken -/

theorem frameTaken_of_receiving {s : State} {bits : List LineBit} (hr : s.receives = true) (hc : rxComplete bits = true)
    (hf : rxFaulty bits = false) :
    frameTaken bits s = (s.handOn (rxHeader bits) (rxBody bits)).endFrame .quiet false := by
  simp [frameTaken, hr, hc, hf]

theorem State.endRest_deaf {s : State} (h : s.running = false ∨ s.bus.standing = .silent) : s.endRest = s := by
  rcases h with h | h <;> simp [State.endRest, h]

theorem State.receives_deaf {s : State} (h : s.running = false ∨ s.bus.standing = .silent) : s.receives = false := by
  rcases h with h | h <;> simp [State.receives, h]

theorem frameTaken_deaf {s : State} (h : s.running = false ∨ s.bus.standing = .silent) (bits : List LineBit) :
    frameTaken bits s = s := by
  simp [frameTaken, State.receives_deaf h, State.endRest_deaf h]

/-- The refresh of an origin, entry by entry (R40). -/
theorem State.refresh_eq (s : State) (origin : ZoneNo) :
    s.refresh origin = { s with roster := { s.roster with entries := Vector.ofFn fun i : Fin 31 =>
      if i.val = origin.toNat then s.roster.entries[i].map fun p => p.heard s.showClock s.absenceTime
      else s.roster.entries[i] } } := by
  cases hz : zoneIndex origin with
  | none =>
    have hne (i : Fin 31) : ¬i.val = origin.toNat := fun hi => by
      rw [zoneIndex_eq_some.2 hi] at hz
      cases hz
    simp [State.refresh, hz, hne]
  | some i =>
    have hi := zoneIndex_eq_some.1 hz
    have hentries : s.roster.entries.set i (s.roster.entries[i].map fun p => p.heard s.showClock s.absenceTime) =
        Vector.ofFn fun j : Fin 31 =>
          if j.val = origin.toNat then s.roster.entries[j].map fun p => p.heard s.showClock s.absenceTime
          else s.roster.entries[j] := by
      ext j hj
      simp only [Vector.getElem_set, Vector.getElem_ofFn, ← hi]
      by_cases hij : i.val = j
      · subst hij
        simp
      · simp [hij, Ne.symm hij]
    simp only [State.refresh, hz, State.setPeer, hentries]

/-- A notice raised before the refresh does not disturb it. -/
theorem State.refresh_raiseIf (s : State) (c : Bool) (n : Notice) (origin : ZoneNo) :
    (s.raiseIf c n).refresh origin = { s.raiseIf c n with
      roster := { s.roster with entries := Vector.ofFn fun i : Fin 31 =>
        if i.val = origin.toNat then s.roster.entries[i].map fun p => p.heard s.showClock s.absenceTime
        else s.roster.entries[i] } } := by
  rw [State.refresh_eq]
  cases c <;> rfl

/-- Settles O26: the notice of a twin is raised before the refresh, which it does not disturb. -/
theorem framesTaken : Obligations.FramesTaken := by
  refine ⟨fun s bits hr hs hl hc hf => ?taken, fun s bits h => congrArg Host.Outcome.next (frameTaken_deaf h bits)⟩
  case taken =>
    intro origin twin heard entries refreshed
    refine congrArg Host.Outcome.next ((frameTaken_of_receiving (receives_iff.2 ⟨hr, hs, hl⟩) hc hf).trans ?_)
    refine congrArg (fun u => (State.accept u (rxHeader bits) (rxBody bits)).endFrame .quiet false) ?_
    have htwin : s.raiseIf (decide (headerOrigin (rxHeader bits) = s.config.zone)) .twinZone = twin :=
      State.raiseIf_decide s _ _
    rw [State.refresh_raiseIf, htwin]
    rfl

end Sys2Proof.Machine
end

section
/-! SUPPORT. O27: the acceptance checks in their order. -/

namespace Sys2Proof.Machine

/-! ## Kinds by their number -/

/-- The kind value of a kind (R24). -/
def FrameKind.number : FrameKind → Nat
  | .wake => 1
  | .call => 2
  | .cancel => 3
  | .handoff => 4
  | .theme => 5
  | .dim => 6
  | .sleep => 7
  | .query => 8
  | .status => 9
  | .presence => 10
  | .cap => 11
  | .clear => 12

theorem FrameKind.ofValue_number : ∀ v : BitVec 5, (FrameKind.ofValue v).all fun k => v.toNat = k.number := by
  decide

theorem FrameKind.ofValue_eq_some {v : BitVec 5} {k : FrameKind} (h : FrameKind.ofValue v = some k) :
    v.toNat = k.number := by
  simpa [h] using FrameKind.ofValue_number v

theorem FrameKind.ofValue_eq_none : ∀ v : BitVec 5, FrameKind.ofValue v = none ↔ v.toNat = 0 ∨ 12 < v.toNat := by
  decide

theorem FrameKind.ofValue_eq_call {v : BitVec 5} : FrameKind.ofValue v = some .call ↔ v.toNat = 2 := by
  revert v
  decide

theorem FrameKind.bodyLength_eq (k : FrameKind) :
    k.bodyLength = [0, 0, 14, 4, 3, 5, 2, 1, 1, 11, 4, 1, 3].getD k.number 0 := by
  cases k <;> rfl

/-! ## Legal fields (R45) -/

theorem spareUsed_iff (b mask : Byte) : spareUsed b mask = true ↔ b &&& mask ≠ 0 := bne_iff_ne

theorem word16_eq_zero (hi lo : Byte) : word16 hi lo = 0 ↔ hi = 0 ∧ lo = 0 := by
  have hh := hi.isLt
  have hl := lo.isLt
  rw [word16_eq_ofNat, ← BitVec.toNat_inj, ← BitVec.toNat_inj, ← BitVec.toNat_inj, BitVec.toNat_ofNat]
  change _ = 0 ↔ _ = 0 ∧ _ = 0
  omega

theorem Effect.ofField_isSome : ∀ f : BitVec 3, (Effect.ofField f).isSome = false ↔ 5 ≤ f.toNat := by
  decide

theorem fieldsLegal_call (body : List Byte) : fieldsLegal .call body = false ↔
    bodyByte body 0 = 0 ∨ 5 ≤ (field (bodyByte body 1) 2 3).toNat ∨ (bodyByte body 9 = 0 ∧ bodyByte body 10 = 0) ∨
      bodyByte body 2 &&& 0x03 ≠ 0 := by
  simp only [fieldsLegal, Bool.and_eq_false_iff, bne_eq_false_iff_eq, Bool.not_eq_false', Effect.ofField_isSome,
    word16_eq_zero, spareUsed_iff, or_assoc]

/-- The kinds with two bytes of spare bits. -/
theorem spareUsed_pair (a b m n : Byte) : (!spareUsed a m && !spareUsed b n) = false ↔ a &&& m ≠ 0 ∨ b &&& n ≠ 0 := by
  simp only [Bool.and_eq_false_iff, Bool.not_eq_false', spareUsed_iff]

theorem spareUsed_single (a m : Byte) : (!spareUsed a m) = false ↔ a &&& m ≠ 0 := by
  rw [Bool.not_eq_false', spareUsed_iff]

/-- The illegal bodies, by the number of their kind. -/
def IllegalFields (kind : Nat) (byte : Nat → Byte) : Prop :=
  (kind = 2 ∧ (byte 0 = 0 ∨ 5 ≤ ((byte 1).extractLsb' 2 3).toNat ∨ (byte 9 = 0 ∧ byte 10 = 0) ∨
    byte 2 &&& 0x03 ≠ 0)) ∨
  (kind = 3 ∧ (byte 0 &&& 0xE0 ≠ 0 ∨ byte 2 &&& 0xFE ≠ 0)) ∨
  (kind = 4 ∧ (byte 0 &&& 0xE0 ≠ 0 ∨ byte 2 &&& 0xF8 ≠ 0)) ∨
  (kind = 7 ∧ byte 0 = 0) ∨
  (kind = 8 ∧ byte 0 &&& 0xE0 ≠ 0) ∨
  (kind = 12 ∧ byte 0 &&& 0xE0 ≠ 0) ∨
  (kind = 9 ∧ (byte 0 &&& 0xF8 ≠ 0 ∨ byte 1 &&& 0x18 ≠ 0)) ∨
  (kind = 10 ∧ (byte 0 &&& 0xFE ≠ 0 ∨ byte 3 &&& 0xC0 ≠ 0))

theorem fieldsLegal_eq_false (k : FrameKind) (body : List Byte) :
    fieldsLegal k body = false ↔ IllegalFields k.number (bodyByte body) := by
  have hrest (h : IllegalFields k.number (bodyByte body) ↔ False) (hl : fieldsLegal k body = true) :
      fieldsLegal k body = false ↔ IllegalFields k.number (bodyByte body) := by simp [h, hl]
  cases k with
  | call => exact (fieldsLegal_call body).trans (by simp [IllegalFields, FrameKind.number, field])
  | cancel => exact (spareUsed_pair _ _ _ _).trans (by simp [IllegalFields, FrameKind.number])
  | handoff => exact (spareUsed_pair _ _ _ _).trans (by simp [IllegalFields, FrameKind.number])
  | status => exact (spareUsed_pair _ _ _ _).trans (by simp [IllegalFields, FrameKind.number])
  | presence => exact (spareUsed_pair _ _ _ _).trans (by simp [IllegalFields, FrameKind.number])
  | sleep => simp [IllegalFields, FrameKind.number, fieldsLegal]
  | query => exact (spareUsed_single _ _).trans (by simp [IllegalFields, FrameKind.number])
  | clear => exact (spareUsed_single _ _).trans (by simp [IllegalFields, FrameKind.number])
  | wake | theme | dim | cap => exact hrest (by simp [IllegalFields, FrameKind.number]) rfl

/-! ## Addressing (R46) -/

/-- The bodies for other stations, by the number of their kind. -/
def Elsewhere (c : NodeConfig) (kind : Nat) (origin : ZoneNo) (byte : Nat → Byte) : Prop :=
  (kind = 2 ∧ (c.route ((byte 1).extractLsb' 5 3)).member = false) ∨
  (kind = 4 ∧ ((c.route ((byte 2).extractLsb' 0 3)).member = false ∨
    origin ∉ (c.route ((byte 2).extractLsb' 0 3)).predecessors)) ∨
  ((kind = 8 ∨ kind = 12) ∧ (byte 0).extractLsb' 0 5 ≠ c.zone ∧ (byte 0).extractLsb' 0 5 ≠ 31#5)

theorem target_elsewhere (c : NodeConfig) (target : ZoneNo) :
    (decide (target = c.zone) || decide (target = 31)) = false ↔ target ≠ c.zone ∧ target ≠ 31 := by
  simp only [Bool.or_eq_false_iff, decide_eq_false_iff_not, ne_eq]

theorem addressed_eq_false (c : NodeConfig) (k : FrameKind) (origin : ZoneNo) (body : List Byte) :
    addressed c k origin body = false ↔ Elsewhere c k.number origin (bodyByte body) := by
  cases k with
  | call => simp [Elsewhere, FrameKind.number, addressed, field]
  | handoff => simp [Elsewhere, FrameKind.number, addressed, field, imp_iff_not_or]
  | query | clear => exact (target_elsewhere c _).trans (by simp [Elsewhere, FrameKind.number, field])
  | wake | cancel | theme | dim | sleep | status | presence | cap => simp [Elsewhere, FrameKind.number, addressed]

/-! ## The checks in their order -/

section Accept

variable {s : State} {header : BitVec 12} {body : List Byte}

/-- A draining station drops a CALL (R41). -/
theorem State.accept_dropped (hd : s.isDraining = true) (hk : FrameKind.ofValue (headerKind header) = some .call) :
    s.accept header body = s := by
  simp [State.accept, judge, hd, hk]

theorem State.accept_foreign (h : FrameKind.ofValue (headerKind header) = none ∨ headerOrigin header = 31) :
    s.accept header body = s := by
  have hj : judge s.config s.isDraining header body = .silently := by
    cases hk : FrameKind.ofValue (headerKind header) with
    | none => simp [judge, hk]
    | some k =>
      have ho : headerOrigin header = 31 := h.resolve_left (by simp [hk])
      simp [judge, hk, ho]
  simp only [State.accept, hj]

/-- The checks of a frame that the node state lets pass and whose kind and origin are known (R41). -/
theorem State.accept_known {k : FrameKind} (hd : ¬(s.isDraining = true ∧ FrameKind.ofValue (headerKind header) = some .call))
    (hk : FrameKind.ofValue (headerKind header) = some k) (ho : headerOrigin header ≠ 31#5) :
    s.accept header body =
      if body.length ≠ k.bodyLength then s.raise .badBody
      else if fieldsLegal k body = false then s.raise .badBody
      else if addressed s.config k (headerOrigin header) body = false then s
      else s.deliverFrame k (headerOrigin header) body := by
  have hnot : ¬(s.isDraining = true ∧ k = .call) := by
    simpa only [hk, Option.some.injEq] using hd
  by_cases hl : body.length = k.bodyLength
  case neg => simp [State.accept, judge, hnot, hk, ho, hl]
  case pos =>
    cases hf : fieldsLegal k body with
    | false => simp [State.accept, judge, hnot, hk, ho, hl, hf]
    | true => cases ha : addressed s.config k (headerOrigin header) body <;>
        simp [State.accept, judge, hnot, hk, ho, hl, hf, ha]

end Accept

/-- Settles O27: each check of the statement is the model's, for the kind that the header's number names. -/
theorem acceptanceChecksInOrder : Obligations.AcceptanceChecksInOrder := by
  intro s header body kind origin byte length foreign illegal elsewhere draining
  have hdrain : s.isDraining = true ∧ FrameKind.ofValue (headerKind header) = some .call ↔ draining :=
    and_congr State.isDraining_eq_true FrameKind.ofValue_eq_call
  have hforeign : FrameKind.ofValue (headerKind header) = none ∨ headerOrigin header = 31 ↔ foreign :=
    (or_congr_left (FrameKind.ofValue_eq_none _)).trans or_assoc
  refine ⟨fun hd => ?dropped, fun _ hf => State.accept_foreign (hforeign.2 hf), ?known⟩
  case dropped =>
    obtain ⟨hd, hk⟩ := hdrain.2 hd
    exact State.accept_dropped hd hk
  case known =>
    by_cases hf : foreign
    case pos => simp [hf]
    case neg =>
    obtain ⟨hsome, ho⟩ := not_or.1 (mt hforeign.1 hf)
    obtain ⟨k, hk⟩ := Option.ne_none_iff_exists'.1 hsome
    have hnumber : kind = k.number := FrameKind.ofValue_eq_some hk
    have hlength : length = k.bodyLength := by rw [k.bodyLength_eq, ← hnumber]
    have hillegal : fieldsLegal k body = false ↔ illegal := by
      rw [fieldsLegal_eq_false, ← hnumber]
      rfl
    have helsewhere : addressed s.config k (headerOrigin header) body = false ↔ elsewhere := by
      rw [addressed_eq_false, ← hnumber]
      rfl
    rw [hlength]
    simp only [← hillegal, ← helsewhere]
    have hchecks (hd : ¬draining) := State.accept_known (body := body) (mt hdrain.1 hd) hk ho
    refine ⟨fun hd _ hl => ?_, fun hd _ hl hi => ?_, fun hd _ hl hi he => ?_, fun hd _ hl hi he => ⟨k, hk, ?_⟩⟩
    · rw [hchecks hd, if_pos hl]
    · rw [hchecks hd, if_neg (not_not.2 hl), if_pos hi]
    · rw [hchecks hd, if_neg (not_not.2 hl), if_neg hi, if_pos he]
    · rw [hchecks hd, if_neg (not_not.2 hl), if_neg hi, if_neg he]
      rfl

end Sys2Proof.Machine
end

section
/-! SUPPORT. O25: what the bits of a frame show, and the votes and runs. -/

namespace Sys2Proof.Machine

/-! ## The line at a moment, split by split -/

/-- What the line shows at time `T` after a pulse that began at `t` and lasted `w`: dominant inside it, recessive
between it and the edge of the next bit, and recessive past the last pulse if the frame is cut there. -/
def ShownAt (cut : Prop) (T : Nat) (v : Bool) (t w : Nat) (post : List LineBit) : Prop :=
  (t < T → T < t + w → v = false) ∧
  (t + w < T → ∀ d rest, post = d :: rest → T < t + d.spacing → v = true) ∧
  (t + w < T → post = [] → cut → v = true)

/-- `v` is what the line shows at time `T` after the edge of `b`, whichever pulse of `b` and the bits after it that
moment falls behind. -/
def Shown (cut : Prop) (cs : List LineBit) (T : Nat) (b : LineBit) (v : Bool) : Prop :=
  ∀ mid post c, cs = mid ++ post → (b :: mid).getLast? = some c →
    ShownAt cut T v (mid.map LineBit.spacing).sum c.width post

theorem shownAt_shift {cut : Prop} {T d : Nat} (v : Bool) (t w : Nat) (post : List LineBit) (hd : d < T) :
    ShownAt cut T v (d + t) w post ↔ ShownAt cut (T - d) v t w post := by
  have hbefore (x : Nat) : d + x < T ↔ x < T - d := by omega
  have hafter (x : Nat) : T < d + x ↔ T - d < x := by omega
  simp only [ShownAt, Nat.add_assoc, hbefore, hafter]

theorem shownAt_past {cut : Prop} {T t : Nat} (v : Bool) (w : Nat) (post : List LineBit) (ht : T ≤ t) :
    ShownAt cut T v t w post :=
  have hpast : ¬t + w < T := by omega
  ⟨fun h => absurd h (Nat.not_lt.2 ht), fun h => absurd h hpast, fun h => absurd h hpast⟩

theorem shown_nil {cut : Prop} {T : Nat} {b : LineBit} {v : Bool} :
    Shown cut [] T b v ↔ ShownAt cut T v 0 b.width [] := by
  refine ⟨fun h => h [] [] b rfl rfl, fun h mid post c hsplit hlast => ?_⟩
  obtain ⟨rfl, rfl⟩ := List.append_eq_nil_iff.1 hsplit.symm
  cases hlast
  exact h

theorem shown_cons {cut : Prop} {T : Nat} {b c : LineBit} {cs : List LineBit} {v : Bool} :
    Shown cut (c :: cs) T b v ↔ ShownAt cut T v 0 b.width (c :: cs) ∧
      ∀ mid post e, cs = mid ++ post → (c :: mid).getLast? = some e →
        ShownAt cut T v (c.spacing + (mid.map LineBit.spacing).sum) e.width post := by
  constructor
  case mp =>
    refine fun h => ⟨h [] (c :: cs) b rfl rfl, fun mid post e hsplit hlast => ?_⟩
    have hhere := h (c :: mid) post e (by rw [hsplit]; rfl) (by rwa [List.getLast?_cons_cons])
    rwa [List.map_cons, List.sum_cons] at hhere
  case mpr =>
    rintro ⟨hfirst, hlater⟩ mid post e hsplit hlast
    cases mid with
    | nil =>
      cases hsplit
      cases hlast
      exact hfirst
    | cons m mid =>
      obtain ⟨rfl, htail⟩ := List.cons.inj hsplit
      rw [List.getLast?_cons_cons] at hlast
      rw [List.map_cons, List.sum_cons]
      exact hlater mid post e htail hlast

/-- A moment no later than the next edge falls behind the first pulse. -/
theorem shown_cons_before {cut : Prop} {T : Nat} {b c : LineBit} {cs : List LineBit} {v : Bool} (h : T ≤ c.spacing) :
    Shown cut (c :: cs) T b v ↔ ShownAt cut T v 0 b.width (c :: cs) := by
  refine shown_cons.trans (and_iff_left fun mid post e _ _ => shownAt_past v _ post ?_)
  exact Nat.le_trans h (Nat.le_add_right _ _)

/-- A moment past the next edge is measured from that edge. -/
theorem shown_cons_after {cut : Prop} {T : Nat} {b c : LineBit} {cs : List LineBit} {v : Bool} (hb : b.width < c.spacing)
    (h : c.spacing < T) : Shown cut (c :: cs) T b v ↔ Shown cut cs (T - c.spacing) c v := by
  have hfirst : ShownAt cut T v 0 b.width (c :: cs) := by
    refine ⟨fun _ hin => ?_, fun _ d rest hpost hd => ?_, fun _ hpost => by cases hpost⟩
    · rw [Nat.zero_add] at hin
      exact absurd (Nat.lt_trans (Nat.lt_trans hb h) hin) (Nat.lt_irrefl _)
    · cases hpost
      rw [Nat.zero_add] at hd
      exact absurd (Nat.lt_trans h hd) (Nat.lt_irrefl _)
  refine shown_cons.trans ((and_iff_right hfirst).trans ?_)
  simp only [Shown, shownAt_shift _ _ _ _ h]

/-- The line behind a pulse: dominant before its end, then recessive up to the next edge, or as beyond. -/
theorem shownAt_inside {cut : Prop} {T w : Nat} (v : Bool) (post : List LineBit) (h0 : 0 < T) (h : T < w) :
    ShownAt cut T v 0 w post ↔ v = false := by
  have hnot : ¬0 + w < T := by omega
  refine ⟨fun hs => hs.1 h0 (by omega), fun hv => ⟨fun _ _ => hv, fun h => absurd h hnot, fun h => absurd h hnot⟩⟩

theorem shownAt_end {cut : Prop} (T : Nat) (v : Bool) (post : List LineBit) : ShownAt cut T v 0 T post :=
  have hnot : ¬0 + T < T := by omega
  ⟨fun _ h => absurd h (by omega), fun h => absurd h hnot, fun h => absurd h hnot⟩

theorem shownAt_gap {cut : Prop} {T w : Nat} (v : Bool) (c : LineBit) (cs : List LineBit) (h : w < T) :
    ShownAt cut T v 0 w (c :: cs) ↔ (T < c.spacing → v = true) := by
  have hin : ¬T < w := by omega
  simp [ShownAt, hin, h]

theorem shownAt_beyond {cut : Prop} {T w : Nat} (v : Bool) (h : w < T) : ShownAt cut T v 0 w [] ↔ (cut → v = true) := by
  have hin : ¬T < w := by omega
  simp [ShownAt, hin, h]

/-- The line that the model reads is the one that the splits show, on bits whose edges follow in time. -/
theorem lineAt_all_iff {beyond : Option Bool} (hbeyond : beyond ≠ some false) (cs : List LineBit) (T : Nat) (b : LineBit)
    (v : Bool) (hT : 0 < T) (hedges : edgesInTime (b :: cs) = true) :
    (lineAt beyond cs T b).all (· == v) = true ↔ Shown (beyond = some true) cs T b v := by
  have hfalse : ((some false).all (· == v) = true) ↔ v = false := by cases v <;> decide
  induction cs generalizing b T with
  | nil =>
    obtain ⟨hin, hend, hpast⟩ := lineAt_nil beyond T b
    rw [shown_nil]
    rcases Nat.lt_trichotomy T b.width with h | h | h
    · rw [hin h, shownAt_inside v [] hT h, hfalse]
    · rw [hend h, h]
      exact iff_of_true rfl (shownAt_end _ v [])
    · rw [hpast h, shownAt_beyond v h]
      rcases beyond with _ | ⟨_ | _⟩
      · simp
      · exact absurd rfl hbeyond
      · simp
  | cons c cs ih =>
    obtain ⟨hfollows, hrest⟩ := (edgesInTime_cons b c cs).1 hedges
    have hb := ((followsInTime_iff b c).1 hfollows).1
    obtain ⟨hin, hend, hgap, hedge, hlater⟩ := lineAt_cons beyond T b c cs hb
    rcases Nat.lt_trichotomy T c.spacing with h | h | h
    · rw [shown_cons_before (Nat.le_of_lt h)]
      rcases Nat.lt_trichotomy T b.width with hw | hw | hw
      · rw [hin hw, shownAt_inside v _ hT hw, hfalse]
      · rw [hend hw, hw]
        exact iff_of_true rfl (shownAt_end _ v _)
      · rw [hgap hw h, shownAt_gap v c cs hw]
        simp [h]
    · rw [shown_cons_before (Nat.le_of_eq h), hedge h, shownAt_gap v c cs (h ▸ hb)]
      exact iff_of_true rfl fun hlt => absurd h (Nat.ne_of_lt hlt)
    · rw [shown_cons_after hb h, hlater h]
      exact ih _ c (Nat.sub_pos_of_lt h) hrest

/-! ## Bits that can stand on a line -/

theorem edgesInTime_iff (bits : List LineBit) : edgesInTime bits = true ↔
    ∀ pre a b post, bits = pre ++ a :: b :: post → followsInTime a b = true := by
  induction bits with
  | nil => exact iff_of_true rfl fun pre a b post h => by simp at h
  | cons x xs ih =>
    have hsplit : (∀ pre a b post, x :: xs = pre ++ a :: b :: post → followsInTime a b = true) ↔
        (∀ b post, xs = b :: post → followsInTime x b = true) ∧
          ∀ pre a b post, xs = pre ++ a :: b :: post → followsInTime a b = true := by
      refine ⟨fun h => ⟨fun b post hb => h [] x b post (by rw [hb]; rfl), fun pre a b post hp =>
        h (x :: pre) a b post (by rw [hp]; rfl)⟩, ?_⟩
      rintro ⟨hfirst, hlater⟩ pre a b post hp
      cases pre with
      | nil =>
        obtain ⟨rfl, hq⟩ := List.cons.inj hp
        exact hfirst b post hq
      | cons p pre =>
        obtain ⟨rfl, hq⟩ := List.cons.inj hp
        exact hlater pre a b post hq
    rw [hsplit, ← ih]
    cases xs with
    | nil => simp [edgesInTime]
    | cons y ys => simp [edgesInTime_cons]

theorem samplesAgree_iff {beyond : Option Bool} (hbeyond : beyond ≠ some false) (bits : List LineBit)
    (hedges : edgesInTime bits = true) : samplesAgree beyond bits = true ↔
      ∀ pre b rest, bits = pre ++ b :: rest → Shown (beyond = some true) rest 2000 b b.sample := by
  induction bits with
  | nil => exact iff_of_true rfl fun pre b rest h => by simp at h
  | cons x xs ih =>
    have htail : edgesInTime xs = true := by
      cases xs with
      | nil => rfl
      | cons y ys => exact ((edgesInTime_cons x y ys).1 hedges).2
    have hfirst := lineAt_all_iff hbeyond xs 2000 x x.sample (by decide) hedges
    rw [samplesAgree, Bool.and_eq_true, ih htail]
    constructor
    case mp =>
      rintro ⟨hx, hxs⟩ pre b rest hp
      cases pre with
      | nil =>
        obtain ⟨rfl, rfl⟩ := List.cons.inj hp
        exact hfirst.1 hx
      | cons p pre =>
        obtain ⟨rfl, hq⟩ := List.cons.inj hp
        exact hxs pre b rest hq
    case mpr =>
      intro h
      exact ⟨hfirst.2 (h [] x xs rfl), fun pre b rest hp => h (x :: pre) b rest (by rw [hp]; rfl)⟩

/-- Bits that can stand on a line, as the statement says it (R2, R3, R17). -/
def Stands (bits : List LineBit) (cut : Prop) : Prop :=
  (∀ b ∈ bits, b.width ≤ 32000) ∧
  (∀ pre a b post, bits = pre ++ a :: b :: post →
    a.width < b.spacing ∧ (b.spacing ≤ 6000 ∨ (6000 ≤ a.width ∧ b.spacing < a.width + 12000))) ∧
  ∀ pre b mid post c, bits = pre ++ b :: (mid ++ post) → (b :: mid).getLast? = some c →
    ShownAt cut 2000 b.sample (mid.map LineBit.spacing).sum c.width post

theorem rxPossible_iff {beyond : Option Bool} (hbeyond : beyond ≠ some false) (bits : List LineBit) :
    rxPossible beyond bits = true ↔ Stands bits (beyond = some true) := by
  have hwidths : bits.all (fun b => !lineStuck b.width) = true ↔ ∀ b ∈ bits, b.width ≤ 32000 := by
    simp only [List.all_eq_true, Bool.not_eq_true', ← Bool.not_eq_true, lineStuck_iff, Nat.not_lt]
  have hedges : edgesInTime bits = true ↔ ∀ pre a b post, bits = pre ++ a :: b :: post →
      a.width < b.spacing ∧ (b.spacing ≤ 6000 ∨ (6000 ≤ a.width ∧ b.spacing < a.width + 12000)) := by
    simp only [edgesInTime_iff, followsInTime_iff]
  have hshown : (∀ pre b rest, bits = pre ++ b :: rest → Shown (beyond = some true) rest 2000 b b.sample) ↔
      ∀ pre b mid post c, bits = pre ++ b :: (mid ++ post) → (b :: mid).getLast? = some c →
        ShownAt (beyond = some true) 2000 b.sample (mid.map LineBit.spacing).sum c.width post :=
    ⟨fun h pre b mid post c hb hc => h pre b (mid ++ post) hb mid post c rfl hc,
      fun h pre b rest hb mid post c hrest hc => h pre b mid post c (by rw [hb, hrest]) hc⟩
  have hsamples (he : edgesInTime bits = true) := (samplesAgree_iff hbeyond bits he).trans hshown
  rw [rxPossible, Bool.and_eq_true, Bool.and_eq_true, hwidths, and_assoc, Stands, ← hedges]
  exact and_congr_right fun _ => and_congr_right hsamples

theorem rxComplete_iff (bits : List LineBit) :
    rxComplete bits = true ↔ Stands bits False ∧ bits.length = 33 + 8 * rxLength bits := by
  have hnone : Stands bits (none = some true) ↔ Stands bits False := by simp only [reduceCtorEq]
  have hlong : bits.length = 33 + 8 * rxLength bits → 17 ≤ bits.length := by omega
  rw [rxComplete, Bool.and_eq_true, Bool.and_eq_true, rxPossible_iff (by decide), hnone, decide_eq_true_iff,
    decide_eq_true_iff, and_assoc]
  exact and_congr_right fun _ => and_iff_right_of_imp hlong

theorem rxCut_iff (bits : List LineBit) : rxCut bits = true ↔
    Stands bits True ∧ (∃ b, bits.getLast? = some b ∧ b.width ≤ 6000) ∧ bits.length ≤ 33 + 8 * rxLength bits := by
  have hends : endsAtCut bits = true ↔ ∃ b, bits.getLast? = some b ∧ b.width ≤ 6000 := by
    simp only [endsAtCut, Option.any_eq_true, decide_eq_true_eq]
    rfl
  have hlength : (decide (bits.length < rxPrefixBits) || decide (bits.length ≤ rxFullBits bits)) = true ↔
      bits.length ≤ 33 + 8 * rxLength bits := by
    rw [Bool.or_eq_true, decide_eq_true_iff, decide_eq_true_iff, rxPrefixBits, rxFullBits]
    omega
  have htrue : Stands bits (some true = some true) ↔ Stands bits True := by simp only
  rw [rxCut, Bool.and_eq_true, Bool.and_eq_true, rxPossible_iff (by decide), htrue, hends, hlength, and_assoc]

/-! ## Faults -/

theorem rxLength_eq (bits : List LineBit) : rxLength bits = bitsValue (((bits.map LineBit.sample).drop 13).take 4) := by
  rw [rxLength, List.map_take, List.map_drop]

theorem rxFaulty_iff (bits : List LineBit) : rxFaulty bits = true ↔
    (∃ b ∈ bits, ¬((500 ≤ b.width ∧ b.width ≤ 1500) ∨ (2500 ≤ b.width ∧ b.width ≤ 3500)) ∧ b.width ≤ 32000) ∨
    (∃ b ∈ bits.drop 1, ¬(3500 ≤ b.spacing ∧ b.spacing ≤ 4500)) ∨ rxLength bits = 15 ∨
    crcBits (((bits.map LineBit.sample).drop 1).take (16 + 8 * rxLength bits)) ≠
      BitVec.ofNat 16 (bitsValue (((bits.map LineBit.sample).drop (17 + 8 * rxLength bits)).take 16)) := by
  have hmismatch : rxCheckMismatch bits = true ↔
      crcBits (((bits.map LineBit.sample).drop 1).take (16 + 8 * rxLength bits)) ≠
        BitVec.ofNat 16 (bitsValue (((bits.map LineBit.sample).drop (17 + 8 * rxLength bits)).take 16)) := by
    rw [rxCheckMismatch, bne_iff_ne, rxCheck, List.map_take, List.map_take, List.map_drop, List.map_drop]
  have hpulse : bits.any badPulse = true ↔
      ∃ b ∈ bits, ¬((500 ≤ b.width ∧ b.width ≤ 1500) ∨ (2500 ≤ b.width ∧ b.width ≤ 3500)) ∧ b.width ≤ 32000 := by
    simp only [List.any_eq_true, badPulse_iff]
  have hedge : (bits.drop 1).any (fun b => !edgeInWindow b.spacing) = true ↔
      ∃ b ∈ bits.drop 1, ¬(3500 ≤ b.spacing ∧ b.spacing ≤ 4500) := by
    simp only [List.any_eq_true, Bool.not_eq_true', ← Bool.not_eq_true, edgeInWindow_iff]
  rw [rxFaulty, rxBitFault, Bool.or_eq_true, Bool.or_eq_true, Bool.or_eq_true, hpulse, hedge, hmismatch,
    decide_eq_true_iff, or_assoc, or_assoc]

/-! ## The end of a frame -/

section Ends

variable {s : State} {bits : List LineBit}

theorem State.endRest_stopped (hr : s.running = true) (hs : s.bus.standing ≠ .silent) (hl : s.bus.line = .stopped) :
    s.endRest = s.watch (.outside .bitEnd 0) := by
  simp [State.endRest, hr, hs, hl]

/-- What stops receiving in a frame does not receive its rest (R8). -/
theorem State.receives_stopped (hl : s.bus.line = .stopped) : s.receives = false := by
  simp [State.receives, hl]

/-- An unmuted receiver's end of a frame (R10, R12). -/
theorem State.endFrame_unmuted (hm : s.bus.muted = false) (v : Vote) :
    s.endFrame v false = { s with bus := { s.bus with lastVote := .quiet, line := .outside .bitEnd 0, faultRun := 0 } } ∧
    s.endFrame v true = { s with bus := { s.bus with lastVote := v, line := .outside .bitEnd 0 } }.countFault := by
  constructor <;> simp [State.endFrame, State.countFrame, hm]

/-- A muted receiver votes nothing (R10, R12). -/
theorem State.endFrame_muted (hm : s.bus.muted = true) (v : Vote) :
    s.endFrame v true = { s with bus := { s.bus with lastVote := .quiet, line := .outside .bitEnd 0, cleanRun := 0 } } ∧
    s.endFrame v false =
      { s with bus := { s.bus with lastVote := .quiet, line := .outside .bitEnd 0 }.countClean } := by
  constructor <;> simp [State.endFrame, State.countFrame, hm]

end Ends

/-- Settles O25: the line's splits are read by the model's recursion; the ends of frames are the model's cases. -/
theorem votesAndRuns : Obligations.VotesAndRuns := by
  refine ⟨fun bits => ?bits, fun s bits hr hs hl => ?receiving, fun s bits hr hs hl => ?stopped, fun s v => ?runs⟩
  case bits =>
    intro samples value length stands
    have hlength : rxLength bits = length := rxLength_eq bits
    have hfaulty := rxFaulty_iff bits
    have hcomplete := rxComplete_iff bits
    have hcut := rxCut_iff bits
    rw [hlength] at hfaulty hcomplete hcut
    exact ⟨hfaulty, hcomplete, hcut⟩
  case receiving =>
    have hreceives := receives_iff.2 ⟨hr, hs, hl⟩
    refine ⟨fun hc => congrArg Host.Outcome.next ?_, fun hc hf hm => congrArg Host.Outcome.next ?_,
      fun hc hl => congrArg Host.Outcome.next ?_, fun hc hl => congrArg Host.Outcome.next ?_⟩
    · simp [frameVoided, hc, hreceives]
    · simp [frameDiscarded, hc, hf, hm, hreceives]
    · simp [frameCutShort, hc, hreceives, rxFragment, rxPrefixBits, Nat.not_lt.2 hl]
    · simp [frameCutShort, hc, hreceives, rxFragment, rxPrefixBits, hl, State.watch]
  case stopped =>
    have hreceives := State.receives_stopped hl
    have hrest := State.endRest_stopped hr hs hl
    refine ⟨fun hc => congrArg Host.Outcome.next ?_, fun hc hf => congrArg Host.Outcome.next ?_,
      fun hc hf => congrArg Host.Outcome.next ?_, fun hc => congrArg Host.Outcome.next ?_⟩
    · simp [frameVoided, hc, hreceives, hrest, State.watch]
    · simp [frameTaken, hc, hf, hreceives, hrest, State.watch]
    · simp [frameDiscarded, hc, hf, hreceives, hrest, State.watch]
    · simp [frameCutShort, hc, hreceives, hrest, State.watch]
  case runs =>
    refine ⟨fun hm => ?unmuted, fun hm => ?muted⟩
    case unmuted =>
      obtain ⟨hclean, hfault⟩ := State.endFrame_unmuted hm v
      refine ⟨hclean, fun hlow => ?_, fun hfull => ?_⟩
      · simp [hfault, State.countFault, hlow]
      · simp [hfault, State.countFault, hfull]
    case muted =>
      obtain ⟨hfault, hclean⟩ := State.endFrame_muted hm v
      refine ⟨hfault, fun hlow => ?_, fun hfull => ?_⟩
      · simp [hclean, BusPort.countClean, hlow]
      · simp [hclean, BusPort.countClean, hfull]

end Sys2Proof.Machine
end

section
/-! SUPPORT. O16 and O18: the headers and bodies of the frames that the node sends. -/

namespace Sys2Proof.Machine

/-! ## Headers -/

section Header

variable {u k : Nat} (z : ZoneNo)

/-- The three fields of a header written as a number (R23). -/
theorem header_fields (hk : k < 32) : (BitVec.ofNat 12 (u * 1024 + k * 32 + z.toNat)).extractLsb' 0 5 = z ∧
    (BitVec.ofNat 12 (u * 1024 + k * 32 + z.toNat)).extractLsb' 5 5 = BitVec.ofNat 5 k ∧
    (BitVec.ofNat 12 (u * 1024 + k * 32 + z.toNat)).extractLsb' 10 2 = BitVec.ofNat 2 u := by
  have hz := z.isLt
  refine ⟨?_, ?_, ?_⟩ <;> apply BitVec.eq_of_toNat_eq <;>
    simp only [BitVec.extractLsb'_toNat, BitVec.toNat_ofNat, Nat.shiftRight_eq_div_pow] <;> omega

end Header

theorem sendHeader_toNat (k : SendKind) (z : ZoneNo) :
    (sendHeader k z).toNat = k.urgency * 1024 + k.value * 32 + z.toNat := by
  have hz := z.isLt
  have hk : k.urgency * 1024 + k.value * 32 ≤ 3392 := by cases k <;> decide
  rw [sendHeader, BitVec.toNat_ofNat]
  omega

/-- The header below the urgency: kind and origin. -/
theorem headerKind_low (h : BitVec 12) : headerKind h = (h.extractLsb' 0 10).extractLsb' 5 5 := by
  ext i hi
  simp [headerKind]

theorem headerOrigin_low (h : BitVec 12) : headerOrigin h = (h.extractLsb' 0 10).extractLsb' 0 5 := by
  ext i hi
  simp [headerOrigin]

theorem State.handOn_congr (s : State) {h h' : BitVec 12} (b : List Byte) (hk : headerKind h = headerKind h')
    (ho : headerOrigin h = headerOrigin h') : s.handOn h b = s.handOn h' b := by
  simp only [State.handOn, State.accept, judge, hk, ho]

/-- Settles O16: a header is its three numbers in their places, and the checks read only the kind and the origin. -/
theorem headersOfSentFrames : Obligations.HeadersOfSentFrames := by
  refine ⟨fun k z => ?fields, fun z z' => ?kinds, fun k z z' hz => ?zones, fun s h h' b hlow => ?urgency⟩
  case fields =>
    obtain ⟨hzone, hkind, hurgency⟩ := header_fields (u := k.urgency) (k := k.value) z (by cases k <;> decide)
    refine ⟨hzone, (congrArg₂ Prod.mk hurgency hkind).trans ?_, (sendHeader_toNat k z).trans ?_⟩
    · cases k <;> rfl
    · cases k <;> rfl
  case kinds =>
    have hz := z.isLt
    have hz' := z'.isLt
    simp only [sendHeader_toNat, SendKind.urgency, SendKind.value]
    omega
  case zones =>
    rw [sendHeader_toNat, sendHeader_toNat]
    exact Nat.add_lt_add_left hz _
  case urgency =>
    refine State.handOn_congr s b ?_ ?_
    · rw [headerKind_low, headerKind_low, hlow]
    · rw [headerOrigin_low, headerOrigin_low, hlow]

/-! ## Bytes made of fields -/

theorem byteOf_extract {lo len : Nat} (n : Nat) (h : lo + len ≤ 8) :
    (byteOf n).extractLsb' lo len = BitVec.ofNat len (n / 2 ^ lo) := by
  refine BitVec.eq_of_getLsbD_eq fun i hi => ?_
  have hlt : lo + i < 8 := by omega
  simp only [byteOf, BitVec.getLsbD_extractLsb', BitVec.getLsbD_ofNat, Nat.testBit_div_two_pow, hlt, hi, decide_true,
    Bool.true_and, Nat.add_comm]

theorem byteOf_zone (x : BitVec 5) : byteOf x.toNat = x.setWidth 8 :=
  BitVec.eq_of_toNat_eq (by simp [byteOf])

theorem byteOf_route (x : BitVec 3) : byteOf x.toNat = x.setWidth 8 :=
  BitVec.eq_of_toNat_eq (by simp [byteOf])

/-- Whether a mask of neighbouring bits meets a word. -/
theorem masked_any {lo n : Nat} (x mask : BitVec 16) (hmask : ∀ i < 16, mask.getLsbD i = decide (lo ≤ i ∧ i < lo + n))
    (hn : lo + n ≤ 16) : ((x &&& mask) != 0) = (List.range n).any fun k => x.getLsbD (lo + k) := by
  rw [Bool.eq_iff_iff, bne_iff_ne, List.any_eq_true]
  constructor
  case mpr =>
    rintro ⟨k, hk, hx⟩ hzero
    have hk : k < n := List.mem_range.1 hk
    have hbit := congrArg (BitVec.getLsbD · (lo + k)) hzero
    simp [hx, hmask (lo + k) (by omega), hk] at hbit
  case mp =>
    intro hne
    by_contra hnone
    refine hne (BitVec.eq_of_getLsbD_eq fun i hi => ?_)
    by_cases hin : lo ≤ i ∧ i < lo + n
    case pos =>
      have hx : ¬x.getLsbD i = true := fun hx =>
        hnone ⟨i - lo, List.mem_range.2 (by omega), by rwa [show lo + (i - lo) = i by omega]⟩
      simp [hx]
    case neg => simp [hmask i hi, hin]

theorem outstanding_eq (notices : BitVec 16) : outstanding notices =
    ⟨(List.range 6).any fun k => notices.getLsbD (0 + k), (List.range 6).any fun k => notices.getLsbD (6 + k),
      (List.range 4).any fun k => notices.getLsbD (12 + k)⟩ := by
  rw [outstanding, NoticeGroup.mask, NoticeGroup.mask, NoticeGroup.mask, masked_any (lo := 0) (n := 6) _ _ (by decide) (by decide),
    masked_any (lo := 6) (n := 6) _ _ (by decide) (by decide), masked_any (lo := 12) (n := 4) _ _ (by decide) (by decide)]

/-- The group byte of a PRESENCE, bit by bit (R37). -/
theorem groupsByte_bits (o n : GroupFlags) :
    let groups := byteOf (o.code * 8 + n.code)
    groups.getLsbD 0 = n.cue ∧ groups.getLsbD 1 = n.bus ∧ groups.getLsbD 2 = n.output ∧
      groups.getLsbD 3 = o.cue ∧ groups.getLsbD 4 = o.bus ∧ groups.getLsbD 5 = o.output ∧
      groups.getLsbD 6 = false ∧ groups.getLsbD 7 = false := by
  obtain ⟨a, b, c⟩ := o
  obtain ⟨d, e, f⟩ := n
  revert a b c d e f
  decide

section Bodies

variable (s : State)

theorem State.conditionByte_fields :
    s.conditionByte.extractLsb' 6 2 = BitVec.ofNat 2 s.bus.standing.code ∧ s.conditionByte.getLsbD 5 = s.bus.muted ∧
      s.conditionByte.extractLsb' 3 2 = 0 ∧ s.conditionByte.extractLsb' 0 3 = BitVec.ofNat 3 s.supply.state.code := by
  unfold State.conditionByte
  generalize s.bus.muted = m
  cases s.bus.standing <;> cases s.supply.state <;> revert m <;> decide

theorem State.portsByte_fields (p : Fin 4) :
    s.portsByte.extractLsb' (2 * p.val) 2 = BitVec.ofNat 2 s.ports[p].state.code := by
  have hcode (x : PortState) : x.code < 4 := by cases x <;> decide
  have h0 := hcode s.ports[0].state
  have h1 := hcode s.ports[1].state
  have h2 := hcode s.ports[2].state
  rw [State.portsByte, byteOf_extract _ (by omega)]
  apply BitVec.eq_of_toNat_eq
  simp only [BitVec.toNat_ofNat]
  match p with
  | 0 => simp; omega
  | 1 => simp; omega
  | 2 => simp; omega
  | 3 => simp; omega

theorem State.presence_counts (hc : s.cues.length ≤ 8) (hl : s.stack.layers.length ≤ 6) :
    ((byteOf (s.cues.length * 16 + s.stack.layers.length)).extractLsb' 4 4).toNat = s.cues.length ∧
    ((byteOf (s.cues.length * 16 + s.stack.layers.length)).extractLsb' 0 4).toNat = s.stack.layers.length := by
  rw [byteOf_extract _ (by decide), byteOf_extract _ (by decide), BitVec.toNat_ofNat, BitVec.toNat_ofNat]
  omega

theorem State.code_of_running (hr : s.running = true) : byteOf s.nodeState.code = if s.isDraining then 3 else 2 := by
  rcases State.running_eq_true.1 hr with h | ⟨p, h⟩ <;> simp [State.isDraining, h, NodeState.code, byteOf]

end Bodies

/-- Settles O18: each body as it is filled, its packed bytes taken apart again. -/
theorem bodiesOfSentFrames : Obligations.BodiesOfSentFrames := by
  refine fun s e => ⟨fun hk => ?cap, fun w hk hw => ?handoff, fun hk hc hl => ?presence, fun hk hr hc hl => ?status⟩
  case cap => simp only [State.bodyOf, hk]
  case handoff =>
    simp only [State.bodyOf, hk, hw, Option.map_some, Option.getD_some, Wave.body, byteOf_zone, byteOf_route]
  case presence =>
    obtain ⟨hcues, hlayers⟩ := s.presence_counts hc hl
    refine ⟨byteOf (s.cues.length * 16 + s.stack.layers.length),
      byteOf ((outstanding s.status.notices).code * 8 + s.status.groupNew.code), ?_, hcues, hlayers, ?_⟩
    · simp only [State.bodyOf, hk, State.presenceBody]
    · rw [outstanding_eq]
      simpa only [Nat.zero_add] using groupsByte_bits _ _
  case status =>
    obtain ⟨hstanding, hmuted, hspare, hsupply⟩ := s.conditionByte_fields
    refine ⟨s.conditionByte, s.portsByte, ?_, hstanding.trans ?_, hmuted, hspare, hsupply.trans ?_,
      fun p => (s.portsByte_fields p).trans ?_⟩
    · simp only [State.bodyOf, hk, State.statusBody, s.code_of_running hr]
      rfl
    · cases s.bus.standing <;> rfl
    · cases s.supply.state <;> rfl
    · cases s.ports[p].state <;> rfl

end Sys2Proof.Machine
end

section
/-! SUPPORT. O17: a frame as it is sent, and as a clean line shows it. -/

namespace Sys2Proof.Machine

/-! ## Bits and the numbers they stand for -/

theorem msbFirst_length {w : Nat} (x : BitVec w) : (msbFirst x).length = w := by
  simp [msbFirst]

theorem msbFirst_eq {w : Nat} (x : BitVec w) : msbFirst x = (List.range w).map fun i => x.getLsbD (w - 1 - i) := by
  refine List.map_congr_left fun i hi => ?_
  have hi : i < w := List.mem_range.1 hi
  simp [BitVec.getMsbD, hi]

theorem bitsValue_concat (bits : List Bool) (bit : Bool) : bitsValue (bits ++ [bit]) = 2 * bitsValue bits + bit.toNat := by
  simp [bitsValue, List.foldl_append]

/-- The first `n` bits of a word are its quotient by the rest's weight. -/
theorem bitsValue_firstBits {w : Nat} (x : BitVec w) {n : Nat} (hn : n ≤ w) :
    bitsValue ((List.range n).map fun i => x.getMsbD i) = x.toNat / 2 ^ (w - n) := by
  induction n with
  | zero => simp [bitsValue, Nat.div_eq_of_lt x.isLt]
  | succ n ih =>
    have hbit : x.getMsbD n = x.toNat.testBit (w - (n + 1)) := by
      rw [BitVec.testBit_toNat, BitVec.getMsbD, decide_eq_true (show n < w by omega), Bool.true_and, Nat.sub_sub,
        Nat.add_comm]
    have hhalf : x.toNat / 2 ^ (w - n) = x.toNat / 2 ^ (w - (n + 1)) / 2 := by
      rw [Nat.div_div_eq_div_mul, ← Nat.pow_succ, show (w - (n + 1)).succ = w - n by omega]
    rw [List.range_succ, List.map_append, List.map_singleton, bitsValue_concat, ih (by omega), hbit, Nat.toNat_testBit,
      hhalf]
    omega

theorem bitsValue_msbFirst {w : Nat} (x : BitVec w) : bitsValue (msbFirst x) = x.toNat :=
  (bitsValue_firstBits x (Nat.le_refl w)).trans (by simp)

theorem bitsBytes_flatMap (body : List Byte) (rest : List Bool) :
    bitsBytes body.length (body.flatMap msbFirst ++ rest) = body := by
  induction body with
  | nil => rfl
  | cons x xs ih =>
    rw [List.length_cons, List.flatMap_cons, List.append_assoc, bitsBytes, List.take_left' (msbFirst_length x),
      List.drop_left' (msbFirst_length x), bitsValue_msbFirst, ih]
    simp [byteOf]

theorem flatMap_msbFirst_length (body : List Byte) : (body.flatMap (msbFirst : Byte → List Bool)).length = 8 * body.length := by
  simp [List.length_flatMap, msbFirst_length, Nat.mul_comm]

theorem checkedBits_length (h : BitVec 12) (b : List Byte) : (checkedBits h b).length = 16 + 8 * b.length := by
  simp only [checkedBits, List.length_append, msbFirst_length, flatMap_msbFirst_length]

/-- The CRC register takes one bit (R6). -/
theorem crcStep_eq (reg : BitVec 16) (bit : Bool) :
    crcStep reg bit = (reg <<< 1) ^^^ (if reg.getMsbD 0 = bit then 0x0000#16 else 0x1021#16) := by
  unfold crcStep
  rw [show reg.msb = reg.getMsbD 0 from rfl]
  by_cases h : reg.getMsbD 0 = bit <;> simp [h]

/-! ## The clean line -/

theorem cleanLine_length (l : List Bool) : (cleanLine l).length = l.length := List.length_map _

theorem cleanLine_samples (l : List Bool) : (cleanLine l).map LineBit.sample = l := by
  rw [cleanLine, List.map_map]
  exact List.map_id'' (fun _ => rfl) l

/-- The pulses of a clean line are short or long, and its edges come every 4 µs. -/
theorem cleanLine_mem {l : List Bool} {b : LineBit} (h : b ∈ cleanLine l) :
    b.spacing = 4000 ∧ b.width = if b.sample then 1000 else 3000 := by
  obtain ⟨x, _, rfl⟩ := List.mem_map.1 h
  exact ⟨rfl, rfl⟩

theorem cleanLine_edges (l : List Bool) : edgesInTime (cleanLine l) = true := by
  refine (edgesInTime_iff _).2 fun pre a b post h => (followsInTime_iff a b).2 ?_
  have ha := (cleanLine_mem (l := l) (b := a) (by simp [h])).2
  have hb := (cleanLine_mem (l := l) (b := b) (by simp [h])).1
  rw [ha, hb]
  cases a.sample <;> decide

theorem cleanLine_agrees (l : List Bool) : samplesAgree none (cleanLine l) = true := by
  induction l with
  | nil => rfl
  | cons x xs ih =>
    refine (Bool.and_eq_true _ _).mpr ⟨?_, ih⟩
    cases x <;> cases xs <;> rfl

theorem cleanLine_possible (l : List Bool) : rxPossible none (cleanLine l) = true := by
  have hwidths : (cleanLine l).all (fun b => !lineStuck b.width) = true := by
    refine List.all_eq_true.2 fun b hb => ?_
    rw [(cleanLine_mem hb).2]
    cases b.sample <;> rfl
  rw [rxPossible, hwidths, cleanLine_edges, cleanLine_agrees]
  rfl

theorem cleanLine_noBitFault (l : List Bool) : rxBitFault (cleanLine l) = false := by
  have hpulses : (cleanLine l).any badPulse = false := by
    refine List.any_eq_false.2 fun b hb => ?_
    rw [badPulse, (cleanLine_mem hb).2]
    cases b.sample <;> decide
  have hedges : ((cleanLine l).drop 1).any (fun b => !edgeInWindow b.spacing) = false := by
    refine List.any_eq_false.2 fun b hb => ?_
    rw [(cleanLine_mem (List.mem_of_mem_drop hb)).1]
    decide
  rw [rxBitFault, hpulses, hedges]
  rfl

/-! ## The fields of a frame on a clean line -/

section Fields

variable (h : BitVec 12) (b : List Byte)

theorem frameBits_eq : (Frame.make h b).bits = false :: (checkedBits h b ++ msbFirst (crcBits (checkedBits h b))) := by
  simp only [Frame.bits, Frame.make]

theorem rxHeader_cleanLine : rxHeader (cleanLine (Frame.make h b).bits) = h := by
  rw [rxHeader, List.map_take, List.map_drop, cleanLine_samples, frameBits_eq, List.drop_succ_cons, List.drop_zero,
    checkedBits, List.append_assoc, List.append_assoc, List.take_left' (msbFirst_length h), bitsValue_msbFirst,
    BitVec.ofNat_toNat, BitVec.setWidth_eq]

theorem rxLength_cleanLine (hb : b.length ≤ 14) : rxLength (cleanLine (Frame.make h b).bits) = b.length := by
  rw [rxLength, List.map_take, List.map_drop, cleanLine_samples, frameBits_eq, List.drop_succ_cons, checkedBits,
    List.append_assoc, List.append_assoc, List.drop_left' (msbFirst_length h), List.take_left' (msbFirst_length _),
    bitsValue_msbFirst, BitVec.toNat_ofNat]
  omega

theorem rxBody_cleanLine (hb : b.length ≤ 14) : rxBody (cleanLine (Frame.make h b).bits) = b := by
  have hfirst : (msbFirst h ++ msbFirst (BitVec.ofNat 4 b.length)).length = 16 := by
    rw [List.length_append, msbFirst_length, msbFirst_length]
  rw [rxBody, rxLength_cleanLine h b hb, List.map_drop, cleanLine_samples, frameBits_eq, List.drop_succ_cons, checkedBits,
    List.append_assoc, List.drop_left' hfirst, bitsBytes_flatMap]

theorem rxCheckMismatch_cleanLine (hb : b.length ≤ 14) : rxCheckMismatch (cleanLine (Frame.make h b).bits) = false := by
  have hlength := checkedBits_length h b
  have hchecked : (((cleanLine (Frame.make h b).bits).drop 1).take (16 + 8 * b.length)).map LineBit.sample =
      checkedBits h b := by
    rw [List.map_take, List.map_drop, cleanLine_samples, frameBits_eq, List.drop_succ_cons, List.drop_zero,
      List.take_left' hlength]
  have hcheck : rxCheck (cleanLine (Frame.make h b).bits) = crcBits (checkedBits h b) := by
    rw [rxCheck, rxLength_cleanLine h b hb, List.map_take, List.map_drop, cleanLine_samples, frameBits_eq,
      show 17 + 8 * b.length = 16 + 8 * b.length + 1 by omega, List.drop_succ_cons, List.drop_left' hlength,
      List.take_of_length_le (Nat.le_of_eq (msbFirst_length _)), bitsValue_msbFirst, BitVec.ofNat_toNat,
      BitVec.setWidth_eq]
  rw [rxCheckMismatch, rxLength_cleanLine h b hb, hchecked, hcheck, bne_self_eq_false]

theorem frameBits_length : (Frame.make h b).bits.length = 33 + 8 * b.length := by
  rw [frameBits_eq, List.length_cons, List.length_append, checkedBits_length, msbFirst_length]
  omega

end Fields

/-- Settles O17: a clean line shows the bits as they were sent, and each field is read where it was put. -/
theorem sentFramesAreReceivedWhole : Obligations.SentFramesAreReceivedWhole := by
  refine ⟨crcStep_eq, rfl, fun bits bit => List.foldl_concat .., fun bytes => ?bytes, fun h b => ?bits, fun h b hb => ?received⟩
  case bytes =>
    have hbyte : (msbFirst : Byte → List Bool) = fun x => (List.range 8).map fun i => x.getLsbD (7 - i) :=
      funext msbFirst_byte
    rw [crcBytes, hbyte]
  case bits =>
    intro checked
    have hchecked : checkedBits h b = checked := by simp only [checkedBits, msbFirst_eq]; rfl
    rw [frameBits_eq, hchecked, msbFirst_eq]
  case received =>
    intro bits
    have hlength : rxLength bits = b.length := rxLength_cleanLine h b hb
    have hcount : bits.length = 33 + 8 * b.length := (cleanLine_length _).trans (frameBits_length h b)
    refine ⟨?complete, ?clean, rxHeader_cleanLine h b, hlength, rxBody_cleanLine h b hb, by omega⟩
    case complete =>
      have hpossible : rxPossible none bits = true := cleanLine_possible _
      have hlong : rxPrefixBits ≤ 33 + 8 * b.length := by rw [rxPrefixBits]; omega
      rw [rxComplete, hpossible, rxFullBits, hlength, hcount, decide_eq_true hlong, decide_eq_true rfl]
      rfl
    case clean =>
      have hnoFault : rxBitFault bits = false := cleanLine_noBitFault _
      have hmatch : rxCheckMismatch bits = false := rxCheckMismatch_cleanLine h b hb
      have hnot15 : ¬b.length = 15 := by omega
      rw [rxFaulty, hnoFault, hmatch, hlength, decide_eq_false hnot15]
      rfl

end Sys2Proof.Machine
end

section
/-! SUPPORT. O14: the values of an entry to ACTIVE. -/

namespace Sys2Proof.Machine

/-! ## The first band event -/

/-- The node in ACTIVE with its PRESENCE queued, before the first band event (R180). -/
def State.announced (s : State) : State :=
  { s.activated with out := ⟨[SendEntry.fresh s.config.zone 0 (.report .presence)], 1⟩ }

theorem State.enterActive_eq (s : State) (v : Millivolts) :
    s.enterActive v = s.announced.takeBand (bandOf s.config.vtSelection v) := rfl

/-- The outgoing queue with the CAP of a deep supply before the PRESENCE: it has the lower header (R23, R55). -/
theorem insert_cap (zone : ZoneNo) : insertEntry (SendEntry.fresh zone 1 (.report .cap))
    [SendEntry.fresh zone 0 (.report .presence)] =
      [SendEntry.fresh zone 1 (.report .cap), SendEntry.fresh zone 0 (.report .presence)] := by
  have hbelow : (sendHeader .cap zone).toNat < (sendHeader .presence zone).toNat := by
    rw [sendHeader_toNat, sendHeader_toNat]
    exact Nat.add_lt_add_right (by decide) _
  exact if_pos hbelow

/-- The first band event at a deep supply: DEEP, its notice, level and cap at 0, and a CAP to send (R88, R92). -/
theorem State.announced_deep (s : State) : s.announced.takeBand .b0 =
    { s.announced with
      supply := ⟨.deep, 0, none, none, .b0⟩
      level := ⟨0, s.config.defaultDimmer, lower s.config.defaultDimmer 0, none, none⟩
      status := ⟨Notice.supplyDeep.bit, ⟨false, false, true⟩⟩
      out := ⟨[SendEntry.fresh s.config.zone 1 (.report .cap), SendEntry.fresh s.config.zone 0 (.report .presence)], 2⟩ } := by
  have hraised : Status.raise ⟨0, GroupFlags.clear⟩ .supplyDeep = ⟨Notice.supplyDeep.bit, ⟨false, false, true⟩⟩ := by
    decide
  have hentered : (s.announced.storeBand .b0).enterSupply .deep =
      { s.announced with
        supply := ⟨.deep, 0, none, none, .b0⟩
        status := ⟨Notice.supplyDeep.bit, ⟨false, false, true⟩⟩ } :=
    congrArg (fun st => { s.announced with supply := ⟨.deep, 0, none, none, .b0⟩, status := st }) hraised
  have hlevel : ((s.announced.storeBand .b0).enterSupply .deep).formTarget =
      { s.announced with
        supply := ⟨.deep, 0, none, none, .b0⟩
        level := ⟨0, s.config.defaultDimmer, lower s.config.defaultDimmer 0, none, none⟩
        status := ⟨Notice.supplyDeep.bit, ⟨false, false, true⟩⟩ } := by
    rw [hentered]
    rfl
  rw [State.takeBand_eq_moveSupply]
  have hmoves : SupplyState.deep ≠ (s.announced.storeBand .b0).supply.state := show SupplyState.deep ≠ .normal by decide
  have hcap : SupplyState.deep.cap (s.announced.storeBand .b0).config.sagCap ≠
      (s.announced.storeBand .b0).supply.ownCap := show (0 : Byte) ≠ 255 by decide
  refine (State.moveSupply_new_cap hmoves hcap).trans ?_
  refine (congrArg (State.request · (.report .cap)) hlevel).trans ?_
  rw [← insert_cap]
  rfl

/-- The first band event at a supply below V_t that is not deep: SAG_PENDING with its settle time (R88, R89). -/
theorem State.announced_sagging (s : State) {b : Band} (hb : b = .b1 ∨ b = .b2) : s.announced.takeBand b =
    { s.announced with supply := ⟨.sagPending, 255, some 20, none, b⟩ } := by
  rcases hb with rfl | rfl <;> rfl

theorem State.announced_normal (s : State) {b : Band} (hb : b = .b3 ∨ b = .b4) : s.announced.takeBand b =
    { s.announced with supply := ⟨.normal, 255, none, none, b⟩ } := by
  rcases hb with rfl | rfl <;> rfl

/-! ## The values of the entry -/

/-- What the first band event sets at an entry to ACTIVE (R86 to R93). -/
structure BandTaken (c : NodeConfig) (b : Band) (t : State) : Prop where
  queue : t.out.entries.map (fun e => (e.kind, e.header, e.budget, e.inFlight)) =
    (if decide (b = .b0) then [(.cap, sendHeader .cap c.zone, 3, false)] else []) ++
      [(.presence, sendHeader .presence c.zone, 1, false)]
  level : t.level.d = c.defaultDimmer ∧ t.level.k = (if decide (b = .b0) then 0 else 255) ∧
    t.level.a = lower t.level.d t.level.k ∧ t.level.slewDeadline = none ∧ t.level.ramp = none
  supply : t.supply.state = SupplyState.onBand .normal b ∧ t.supply.ownCap = (if decide (b = .b0) then 0 else 255) ∧
    t.supply.settle = (if t.supply.state = .sagPending then some 20 else none) ∧ t.supply.release = none
  notices : t.status.notices = (if decide (b = .b0) then Notice.supplyDeep.bit else 0) ∧
    t.status.groupNew = ⟨false, false, decide (b = .b0)⟩

theorem State.announced_bandTaken (s : State) (b : Band) : BandTaken s.config b (s.announced.takeBand b) := by
  cases b with
  | b0 =>
    rw [State.announced_deep]
    exact ⟨rfl, ⟨rfl, rfl, rfl, rfl, rfl⟩, ⟨rfl, rfl, rfl, rfl⟩, rfl, rfl⟩
  | b1 | b2 =>
    rw [State.announced_sagging s (by decide)]
    exact ⟨rfl, ⟨rfl, rfl, rfl, rfl, rfl⟩, ⟨rfl, rfl, rfl, rfl⟩, rfl, rfl⟩
  | b3 | b4 =>
    rw [State.announced_normal s (by decide)]
    exact ⟨rfl, ⟨rfl, rfl, rfl, rfl, rfl⟩, ⟨rfl, rfl, rfl, rfl⟩, rfl, rfl⟩

theorem Base.start_theme (c : NodeConfig) : (Base.start c 0).theme = ⟨c.themeColour, c.themeLevel⟩ := by
  rw [Base.start, Base.moveTo_eq]
  split <;> rfl

/-- The base starts at the theme, or on the way there from black (R121, R153). -/
theorem Base.start_current (c : NodeConfig) :
    if c.darkFade = 0 then (Base.start c 0).current = (Base.start c 0).theme ∧ (Base.start c 0).transition = none
    else (Base.start c 0).current = ⟨c.themeColour, 0⟩ ∧
      (Base.start c 0).transition = some ⟨⟨c.themeColour, 0⟩, (Base.start c 0).theme, c.darkFade.toNat, 0, 10⟩ := by
  rw [Base.start_theme, Base.start, Base.moveTo_eq]
  split
  · exact ⟨rfl, rfl⟩
  · exact ⟨rfl, rfl⟩

theorem Port.start_values (c : PortConfig) : if c.type = .off then (Port.start c 0).state = .off
    else (Port.start c 0).state = .idle ∧ (Port.start c 0).forced = true ∧ (Port.start c 0).shift = none ∧
      (Port.start c 0).slot = none ∧ (Port.start c 0).lastSent = none ∧ (Port.start c 0).refreshDeadline = none ∧
      (Port.start c 0).failureRun = 0 ∧ (Port.start c 0).sendCount = 0 ∧ (Port.start c 0).probeDeadline = none ∧
      (Port.start c 0).frameDeadline = some (BitVec.ofNat 32 c.framePeriod) := by
  unfold Port.start
  split
  · rfl
  · exact ⟨rfl, rfl, rfl, rfl, rfl, rfl, rfl, rfl, rfl, congrArg some (BitVec.zero_add _)⟩

/-- The entry to ACTIVE has the values of R180: those that the first band event sets, and those it leaves. -/
theorem State.enterActive_entered (s : State) (v : Millivolts) : EnteredActive s.config v (s.enterActive v) := by
  rw [State.enterActive_eq]
  obtain ⟨hnode, hconfig, hclock, hdrain, hbus, hintake, hroster, hcues, hstack, hbase, hports, _, _⟩ :=
    s.announced.takeBand_frame (bandOf s.config.vtSelection v)
  obtain ⟨hqueue, hlevel, hsupply, hnotices⟩ := s.announced_bandTaken (bandOf s.config.vtSelection v)
  refine ⟨⟨hnode, hclock, hconfig, hdrain⟩, ?bus, hqueue, ?intake, ?roster, hlevel, hsupply, ⟨hcues, ?layers⟩,
    ?theme, ?base, fun p => ?ports, hnotices⟩
  case bus =>
    rw [hbus]
    exact ⟨rfl, rfl, rfl, rfl, rfl, rfl, rfl, rfl⟩
  case intake =>
    rw [hintake]
    exact ⟨rfl, rfl⟩
  case roster =>
    rw [hroster]
    exact ⟨fun i => Vector.getElem_replicate .., rfl, congrArg some (BitVec.zero_add _)⟩
  case layers =>
    rw [hstack]
    rfl
  case theme =>
    rw [hbase]
    exact Base.start_theme s.config
  case base =>
    rw [hbase]
    exact Base.start_current s.config
  case ports =>
    have hport : (s.announced.takeBand (bandOf s.config.vtSelection v)).ports[p] = Port.start s.config.ports[p] 0 := by
      rw [hports]
      exact Vector.getElem_ofFn ..
    rw [hport]
    exact Port.start_values _

/-! ## The two ways to ACTIVE -/

theorem recordRead_iff {r : List Byte} : recordRead r = true ↔ r.length = 96 ∧ r.head? = some 0x4C := by
  rw [recordRead, Bool.and_eq_true, decide_eq_true_iff, beq_iff_eq]
  refine and_congr_right fun hlength => ?_
  cases r with
  | nil => cases hlength
  | cons x xs => exact Option.some_inj.symm

theorem recordCheck_iff {r : List Byte} :
    recordCheck r = true ↔ crcBytes (r.take 94) = r.getD 94 0 ++ r.getD 95 0 := beq_iff_eq

theorem configReadDone_good {s : State} {n : Nat} {r : List Byte} (v : Millivolts)
    (hs : s.nodeState = .starting (.reading n)) (hread : recordRead r = true) (hgood : recordGood r = true) :
    configReadDone r v s = { s with config := configOf r }.enterActive v := by
  simp [configReadDone, hs, hread, hgood]

/-- Settles O14: both ways lead through `State.enterActive`, with the new record or the one in use. -/
theorem entryToActive : Obligations.EntryToActive := by
  refine fun s n r v => ⟨fun hs hlength hhead hcheck hlegal => ?record, fun hs => ?waking⟩
  case record =>
    have hgood : recordGood r = true := by rw [recordGood, recordCheck_iff.2 hcheck, hlegal]; rfl
    have hread := recordRead_iff.2 ⟨hlength, hhead⟩
    refine ⟨_, congrArg Host.Outcome.next (configReadDone_good v hs hread hgood),
      State.enterActive_entered { s with config := configOf r } v, ?_⟩
    exact (State.enterActive_frame _ v).2
  case waking =>
    exact ⟨_, congrArg Host.Outcome.next (if_pos hs), s.enterActive_entered v, (State.enterActive_frame s v).2⟩

end Sys2Proof.Machine
end

section
/-! SUPPORT. O13: the read of the record and the configuration it gives. -/

namespace Sys2Proof.Machine

/-! ## The fields of the table -/

theorem portTypeOf_eq : ∀ f : BitVec 2, portTypeOf f = [.off, .stream, .confirmed, .pwm].getD f.toNat .off := by
  decide

theorem framePeriodOf_eq : ∀ f : BitVec 2, framePeriodOf f = [5, 10, 20, 30].getD f.toNat 0 := by
  decide

theorem refreshOf_eq : ∀ f : BitVec 2, refreshOf f = [50, 100, 150, 200].getD f.toNat 0 := by
  decide

theorem portOf_eq (r : List Byte) (k : Nat) : portOf r k =
    { type := [.off, .stream, .confirmed, .pwm].getD (field (recByte r (13 + 2 * k)) 6 2).toNat .off
      slow := (recByte r (13 + 2 * k)).getLsbD 5
      framePeriod := [5, 10, 20, 30].getD (field (recByte r (13 + 2 * k)) 2 2).toNat 0
      refreshInterval := [50, 100, 150, 200].getD (field (recByte r (13 + 2 * k)) 0 2).toNat 0
      pixels := (recByte r (14 + 2 * k)).toNat } := by
  simp only [portOf, portTypeOf_eq, framePeriodOf_eq, refreshOf_eq, flag]

/-- A route's predecessors by their count; a zone named twice is listed once (R94). -/
theorem predecessorsOf_eq (r : List Byte) (k : Nat) : predecessorsOf r k =
    if predecessorCount r k = 0 then []
    else if predecessorCount r k = 1 ∨ field (recByte r (35 + 4 * k)) 0 5 = field (recByte r (36 + 4 * k)) 0 5 then
      [field (recByte r (35 + 4 * k)) 0 5]
    else [field (recByte r (35 + 4 * k)) 0 5, field (recByte r (36 + 4 * k)) 0 5] := by
  unfold predecessorsOf
  match predecessorCount r k with
  | 0 => rfl
  | 1 => simp
  | n + 2 => simp

theorem configOf_port (r : List Byte) (k : Fin 4) : (configOf r).ports[k] = portOf r k := Vector.getElem_ofFn ..

theorem configOf_route (r : List Byte) (k : Fin 8) : (configOf r).routes[k] = routeOf r k := Vector.getElem_ofFn ..

/-! ## Legal records -/

theorem spareUsed_eq_false (b mask : Byte) : (!spareUsed b mask) = true ↔ b &&& mask = 0 := by
  rw [Bool.not_eq_true', ← Bool.not_eq_true, spareUsed_iff, not_not]

theorem range_all_iff (n : Nat) (p : Nat → Bool) : (List.range n).all p = true ↔ ∀ k < n, p k = true := by
  simp only [List.all_eq_true, List.mem_range]

section Parts

variable (r : List Byte)

theorem sparesClear_iff : sparesClear r = true ↔
    recByte r 1 &&& 0xE0 = 0 ∧ recByte r 2 &&& 0xC8 = 0 ∧ recByte r 21 &&& 0xF8 = 0 ∧
      (∀ k < 4, recByte r (13 + 2 * k) &&& 0x10 = 0 ∧ recByte r (22 + 3 * k) &&& 0x1F = 0) ∧
      (∀ k < 8, recByte r (34 + 4 * k) &&& 0x0C = 0 ∧ recByte r (35 + 4 * k) &&& 0xE0 = 0 ∧
        recByte r (36 + 4 * k) &&& 0xE0 = 0) ∧
      ∀ i, 66 ≤ i → i ≤ 93 → recByte r i = 0 := by
  have htail : (∀ i < 28, recByte r (66 + i) = 0) ↔ ∀ i, 66 ≤ i → i ≤ 93 → recByte r i = 0 :=
    ⟨fun h i hlo hhi => by simpa [show 66 + (i - 66) = i by omega] using h (i - 66) (by omega),
      fun h i hi => h _ (by omega) (by omega)⟩
  simp only [sparesClear, Bool.and_eq_true, range_all_iff, spareUsed_eq_false, beq_iff_eq, htail, forall_and, and_assoc]
  constructor
  · rintro ⟨h1, h2, hports, h21, hsegments, hroutes⟩
    exact ⟨h1, h2, h21, hports, hsegments, hroutes⟩
  · rintro ⟨h1, h2, h21, hports, hsegments, hroutes⟩
    exact ⟨h1, h2, hports, h21, hsegments, hroutes⟩

theorem portLegal_iff (k : Fin 4) : portLegal r k = true ↔
    ((portOf r k).type = .off → (portOf r k).pixels = 0 ∧ recByte r (13 + 2 * k) = 0) ∧
    ((portOf r k).type = .stream → 1 ≤ (portOf r k).pixels ∧ (portOf r k).pixels ≤ 120) ∧
    ((portOf r k).type = .confirmed → 2 ≤ k.val ∧ 1 ≤ (portOf r k).pixels ∧ (portOf r k).pixels ≤ 128) ∧
    ((portOf r k).type = .pwm → k.val = 3 ∧ 1 ≤ (portOf r k).pixels ∧ (portOf r k).pixels ≤ 4) ∧
    ((portOf r k).type ≠ .stream → (portOf r k).slow = false) := by
  unfold portLegal
  cases h : (portOf r k).type <;> simp [h, typeAllowed, countAllowed, and_assoc]

theorem pixelTotal_eq : pixelTotal r =
    (portOf r 0).pixels + (portOf r 1).pixels + (portOf r 2).pixels + (portOf r 3).pixels := by
  simp [pixelTotal, List.range, List.range.loop, portOf, Nat.add_assoc]

theorem segmentLegal_iff (g : Segment) : segmentLegal r g = true ↔
    (portOf r g.port).type ≠ .off ∧ 1 ≤ g.count ∧ g.first + g.count ≤ (portOf r g.port).pixels := by
  simp only [segmentLegal, Bool.and_eq_true, decide_eq_true_eq, and_assoc]

/-- Two segments with pixels are apart when they share none (R178). -/
theorem segmentsApart_iff {g h : Segment} (hg : 1 ≤ g.count) (hh : 1 ≤ h.count) : segmentsApart g h = true ↔
    (g.port = h.port → ∀ k, ¬(g.first ≤ k ∧ k < g.first + g.count ∧ h.first ≤ k ∧ k < h.first + h.count)) := by
  simp only [segmentsApart, Bool.or_eq_true, decide_eq_true_eq, or_assoc]
  constructor
  · rintro hapart hport k ⟨hgk, hkg, hhk, hkh⟩
    rcases hapart with hne | hle | hle
    · exact hne hport
    · omega
    · omega
  · intro hnone
    by_cases hport : g.port = h.port
    · have hmax := hnone hport (max g.first h.first)
      exact .inr (by omega)
    · exact .inl hport

theorem allApart_iff (gs : List Segment) : allApart gs = true ↔ gs.Pairwise fun g h => segmentsApart g h = true := by
  induction gs with
  | nil => simp [allApart]
  | cons g gs ih => rw [allApart, Bool.and_eq_true, List.all_eq_true, ih, List.pairwise_cons]

theorem segmentsLegal_iff : segmentsLegal r = true ↔
    1 ≤ segmentCount r ∧ segmentCount r ≤ 4 ∧
    (∀ g ∈ (configOf r).segments,
      (portOf r g.port).type ≠ .off ∧ 1 ≤ g.count ∧ g.first + g.count ≤ (portOf r g.port).pixels) ∧
    ((configOf r).segments.Pairwise fun g h => g.port = h.port →
      ∀ k, ¬(g.first ≤ k ∧ k < g.first + g.count ∧ h.first ≤ k ∧ k < h.first + h.count)) ∧
    ∀ m, segmentCount r ≤ m → m < 4 →
      recByte r (22 + 3 * m) = 0 ∧ recByte r (23 + 3 * m) = 0 ∧ recByte r (24 + 3 * m) = 0 := by
  have hunused : (List.range 4).all (fun m => decide (m < segmentCount r) ||
        (recByte r (22 + 3 * m) == 0 && recByte r (23 + 3 * m) == 0 && recByte r (24 + 3 * m) == 0)) = true ↔
      ∀ m, segmentCount r ≤ m → m < 4 →
        recByte r (22 + 3 * m) = 0 ∧ recByte r (23 + 3 * m) = 0 ∧ recByte r (24 + 3 * m) = 0 := by
    simp only [range_all_iff, Bool.or_eq_true, Bool.and_eq_true, beq_iff_eq, decide_eq_true_eq, and_assoc]
    exact ⟨fun h m hlo hhi => (h m hhi).resolve_left (Nat.not_lt.2 hlo),
      fun h m hhi => (Nat.lt_or_ge m _).imp_right fun hlo => h m hlo hhi⟩
  have hused : (configOf r).segments.all (segmentLegal r) = true ↔ ∀ g ∈ (configOf r).segments,
      (portOf r g.port).type ≠ .off ∧ 1 ≤ g.count ∧ g.first + g.count ≤ (portOf r g.port).pixels := by
    simp only [List.all_eq_true, segmentLegal_iff]
  have hapart (hlegal : ∀ g ∈ (configOf r).segments,
      (portOf r g.port).type ≠ .off ∧ 1 ≤ g.count ∧ g.first + g.count ≤ (portOf r g.port).pixels) :
      allApart (configOf r).segments = true ↔ (configOf r).segments.Pairwise fun g h => g.port = h.port →
        ∀ k, ¬(g.first ≤ k ∧ k < g.first + g.count ∧ h.first ≤ k ∧ k < h.first + h.count) :=
    (allApart_iff _).trans (List.Pairwise.iff_of_mem fun hg hh =>
      segmentsApart_iff (hlegal _ hg).2.1 (hlegal _ hh).2.1)
  have hparts : segmentsLegal r = (decide (1 ≤ segmentCount r ∧ segmentCount r ≤ 4) &&
      (configOf r).segments.all (segmentLegal r) && allApart (configOf r).segments &&
      (List.range 4).all (fun m => decide (m < segmentCount r) ||
        (recByte r (22 + 3 * m) == 0 && recByte r (23 + 3 * m) == 0 && recByte r (24 + 3 * m) == 0))) := rfl
  rw [hparts, Bool.and_eq_true, Bool.and_eq_true, Bool.and_eq_true, hunused, hused, decide_eq_true_iff, and_assoc,
    and_assoc, and_assoc]
  exact and_congr_right fun _ => and_congr_right fun _ => and_congr_right fun hlegal => and_congr_left fun _ => hapart hlegal

theorem station_iff : ∀ p : ZoneNo, p.toNat ≤ 30 ↔ p ≠ 31 := by
  decide

theorem predecessorLegal_iff (zone p : ZoneNo) : predecessorLegal zone p = true ↔ p ≠ 31 ∧ p ≠ zone := by
  rw [predecessorLegal, Bool.and_eq_true, decide_eq_true_iff, station_iff, bne_iff_ne]

theorem routeLegal_iff (k : Nat) : routeLegal r k = true ↔
    predecessorCount r k ≤ 2 ∧
    (1 ≤ predecessorCount r k →
      field (recByte r (35 + 4 * k)) 0 5 ≠ 31 ∧ field (recByte r (35 + 4 * k)) 0 5 ≠ (configOf r).zone) ∧
    (predecessorCount r k = 2 →
      field (recByte r (36 + 4 * k)) 0 5 ≠ 31 ∧ field (recByte r (36 + 4 * k)) 0 5 ≠ (configOf r).zone) ∧
    (predecessorCount r k = 0 → recByte r (35 + 4 * k) = 0) ∧
    (predecessorCount r k ≤ 1 → recByte r (36 + 4 * k) = 0) := by
  have hzone : field (recByte r 1) 0 5 = (configOf r).zone := rfl
  have hcount : predecessorCount r k < 4 := BitVec.isLt _
  have hcases : predecessorCount r k = 0 ∨ predecessorCount r k = 1 ∨ predecessorCount r k = 2 ∨
      predecessorCount r k = 3 := by omega
  rcases hcases with h | h | h | h
  · simp [routeLegal, h]
  · simp [routeLegal, hzone, h, predecessorLegal_iff]
  · simp [routeLegal, hzone, h, predecessorLegal_iff]
  · simp [routeLegal, h]

theorem recordLegal_iff : recordLegal r = true ↔
    sparesClear r = true ∧
    ((configOf r).zone ≠ 31 ∧ 2 ≤ (configOf r).presenceCount ∧ (configOf r).presenceCount ≤ 40 ∧ (configOf r).slew ≠ 0) ∧
    (∀ k : Fin 4, portLegal r k = true) ∧ pixelTotal r ≤ 256 ∧ segmentsLegal r = true ∧
    ∀ k < 8, routeLegal r k = true := by
  have hports : (List.range 4).all (portLegal r) = true ↔ ∀ k : Fin 4, portLegal r k = true :=
    (range_all_iff 4 _).trans ⟨fun h k => h k k.isLt, fun h k hk => h ⟨k, hk⟩⟩
  simp only [recordLegal, Bool.and_eq_true, hports, range_all_iff, decide_eq_true_eq, bne_iff_ne, station_iff, and_assoc]
  rfl

end Parts

/-! ## The reader -/

section Reader

variable {s : State} {n : Nat} {r : List Byte}

theorem resetRelease_held (h : s.nodeState = .starting .resetHeld) :
    resetRelease s = { s with nodeState := .starting (.reading 0) } := by
  simp only [resetRelease, h]

theorem configReadFailure_reading {byte0 : Byte} (h : s.nodeState = .starting (.reading n)) (hb : byte0 ≠ 0x4C) :
    configReadFailure byte0 s =
      { s with nodeState := if n + 1 < 3 then .starting (.waiting (n + 1)) else .halted } := by
  simp only [configReadFailure, h, formatMarker, Nat.succ_lt_succ_iff]
  exact if_pos hb

theorem configReadRetry_waiting (h : s.nodeState = .starting (.waiting n)) :
    configReadRetry s = { s with nodeState := .starting (.reading n) } := by
  simp only [configReadRetry, h]

theorem configReadDone_bad (v : Millivolts) (hs : s.nodeState = .starting (.reading n)) (hread : recordRead r = true)
    (hbad : recordGood r = false) : configReadDone r v s = { s with nodeState := .halted } := by
  simp [configReadDone, hs, hread, hbad]

end Reader

theorem recordGood_eq_false {r : List Byte}
    (h : crcBytes (r.take 94) ≠ r.getD 94 0 ++ r.getD 95 0 ∨ recordLegal r = false) : recordGood r = false :=
  Bool.and_eq_false_iff.2 (h.imp_left fun hne => Bool.eq_false_iff.2 (mt recordCheck_iff.1 hne))

/-- Settles O13: the reader's moves, the fields at their bytes, and the record's checks part by part. -/
theorem configurationReads : Obligations.ConfigurationReads := by
  refine ⟨fun s n byte0 r v => ?reader, fun r => ?record⟩
  case reader =>
    refine ⟨fun h => congrArg Host.Outcome.next (resetRelease_held h),
      fun h hb => congrArg Host.Outcome.next (configReadFailure_reading h hb),
      fun h => congrArg Host.Outcome.next (configReadRetry_waiting h), fun h hlength hhead hbad => ?_⟩
    exact congrArg Host.Outcome.next
      (configReadDone_bad v h (recordRead_iff.2 ⟨hlength, hhead⟩) (recordGood_eq_false hbad))
  case record =>
    intro byte bit c segmentCount count first second
    refine ⟨rfl, rfl, rfl, rfl, rfl, rfl, rfl, rfl, rfl, rfl, rfl, rfl, fun k => ?port, rfl, fun k => ?route, ?legal⟩
    case port => exact (configOf_port r k).trans (portOf_eq r k)
    case route =>
      refine (configOf_route r k).trans ?_
      rw [routeOf, predecessorsOf_eq]
      rfl
    case legal =>
      rw [recordLegal_iff, sparesClear_iff, pixelTotal_eq, segmentsLegal_iff]
      simp only [portLegal_iff, routeLegal_iff, ← configOf_port]
      rfl

end Sys2Proof.Machine
end
